-- ==== Sys2Proof/Word.lean ====
section
/-! DEFINITION. The word types of the machine: bytes, 16-bit words, port numbers (spec/00_scope.md R5). -/

namespace Sys2Proof

/-- A byte: "byte = 8 bits; every general register 8 bits" (R5). -/
abbrev Byte := BitVec 8

/-- A 16-bit word: "register pairs, IX, IY, SP, PC 16 bits; memory address 16 bits" (R5). -/
abbrev Word := BitVec 16

/-- A port number: "port address 8 bits" (R5, R88). -/
abbrev Port := BitVec 8

end Sys2Proof
end

