-- ==== Sys2Proof/Config.lean ====
section
/-! DEFINITION. What the embedding system fixes: the shapes of the memory devices (`MEMDEVS`) and of the I/O devices
(`IODEVS`), which R6 makes parameters of the model, and the values the spec leaves open, as constants without a body.
A configuration is plain data and stands in `State`; only the BEHAVIOUR of a custom device, which the spec leaves to the
embedding system (R6, R61, R84, U4), is a constant here that nothing can evaluate. -/

namespace Sys2Proof

/-- The kinds of memory device R61 names: "RAM, ROM, custom devices". A custom device declares its own read-only bit;
`id` says which of the embedding system's device behaviours it has. -/
inductive MemKind where
  | ram
  | rom
  | custom (readonly : Bool) (id : Nat)
deriving DecidableEq, Repr

/-- One element of `MEMDEVS` (R60): its size in bytes ("zero allowed") and its kind. `internal` is the internal state of a
custom device (R54: "opaque, a parameter"), a number that only the device's own behaviour reads. RAM and ROM bytes are not
here: they stand in the machine's memory, under their global address. -/
structure MemDev where
  size : Nat
  kind : MemKind
  internal : Nat
deriving DecidableEq, Repr

/-- What a device asserts at arbitration (R510): a non-maskable request, or a maskable request carrying "a payload of one or
more bytes". No request is `none : Option Request`. -/
inductive Request where
  | nmi
  | int (first : Byte) (rest : List Byte)
deriving DecidableEq, Repr

/-- The kinds of I/O device. `test` is the device of the spec's own vectors (95_test_vectors.md, Parts B and D): it reads a
fixed value, records the writes it receives, and from its `delay`-th tick on asserts a fixed request until acknowledged.
`custom` is any other peripheral: its behaviour is the embedding system's (R6, R84, U4). -/
inductive IODevKind where
  | test (value : Byte) (received : List (Port × Byte)) (request : Option Request) (delay : Nat)
  | custom (id : Nat) (internal : Nat)
deriving DecidableEq, Repr

/-- One element of `IODEVS` (R84): the ports it claims and what it is. -/
structure IODev where
  ports : List Port
  kind : IODevKind
deriving DecidableEq, Repr

namespace Config

/-- FREE VALUE: the `n`-th open flag bit (`H` and `PV` after the eight block I/O instructions, U3, D20). -/
opaque freeBit : Nat → Bool

/-- FREE VALUE: the `n`-th unspecified register byte at reset, when `RESET_GPR_UNSPECIFIED` is set (R53, U5). -/
opaque freeByte : Nat → Byte

/-- PARAMETER: `dev_read` of the custom memory device `id` (R60, R61): from its internal state and a local offset, an error
text (R89) or the byte read and the new internal state ("may have side effects"). -/
opaque memDevRead : (id internal offset : Nat) → Except String (Byte × Nat)

/-- PARAMETER: `dev_write` of the custom memory device `id` (R60, R61): an error text or the new internal state. DESIGN CHOICE
(log entry 31): nothing relates it to `memDevRead`, since R61 and R77 let a custom device return what it defines. -/
opaque memDevWrite : (id internal offset : Nat) → Byte → Except String Nat

/-- PARAMETER: `dev_force` of the custom memory device `id` (R60, R68). DESIGN CHOICE (log entry 31): nothing relates it to
`memDevRead`. R68 and R83 have a forced write read back "on every device kind"; R61, R77 and U4 let a custom device return
what it defines, and the model follows these. That it may report an error is log entry 20. -/
opaque memDevForce : (id internal offset : Nat) → Byte → Except String Nat

/-- PARAMETER: `port_in` of the I/O device `id` (R84, R86). -/
opaque portIn : (id internal : Nat) → Port → Except String (Byte × Nat)

/-- PARAMETER: `port_out` of the I/O device `id` (R84, R87). -/
opaque portOut : (id internal : Nat) → Port → Byte → Except String Nat

/-- PARAMETER: `tick` of the I/O device `id` (R509): its new internal state. -/
opaque tick : (id internal : Nat) → Nat

/-- PARAMETER: `irq` of the I/O device `id` (R510): what it asserts in its present internal state. -/
opaque irq : (id internal : Nat) → Option Request

/-- PARAMETER: `ack` of the I/O device `id` (R514): its internal state once acknowledged. -/
opaque ack : (id internal : Nat) → Nat

end Config

end Sys2Proof
end

