-- ==== Sys2Proof/Machine/Devices.lean ====
section
/-! DEFINITION. What one device answers: the memory devices of R60 and R61, and the I/O devices of R84 with their `tick`,
`irq` and `ack` (R509, R510, R514). A custom device's answers are the embedding system's (R6, U4; log entries 4 and 5); the
test device is the one of 95_test_vectors.md (log entry 6). -/

namespace Sys2Proof

/-- The read-only bit of a memory device: RAM 0, ROM 1, custom "as the device declares" (R61). -/
def MemDev.readonly (d : MemDev) : Bool :=
  match d.kind with
  | .ram => false
  | .rom => true
  | .custom ro _ => ro

/-- The payload `INT(bytes)` of a maskable request as a list (R510). -/
def Request.payload : Request → List Byte
  | .nmi => []
  | .int first rest => first :: rest

/-- `port_in_j(p)`: an error text, or the byte read and the device afterwards (R84, R86). -/
def IODev.portIn (d : IODev) (p : Port) : Except String (Byte × IODev) :=
  match d.kind with
  | .test v _ _ _ => .ok (v, d)
  | .custom id n =>
    match Config.portIn id n p with
    | .ok (v, n') => .ok (v, { d with kind := .custom id n' })
    | .error e => .error e

/-- `port_out_j(p, v)`: an error text, or the device afterwards (R84, R87). -/
def IODev.portOut (d : IODev) (p : Port) (v : Byte) : Except String IODev :=
  match d.kind with
  | .test w received q n => .ok { d with kind := .test w (received ++ [(p, v)]) q n }
  | .custom id n =>
    match Config.portOut id n p v with
    | .ok n' => .ok { d with kind := .custom id n' }
    | .error e => .error e

/-- `tick_j()`: "Each tick, `step` is invoked on every registered device so devices can update internal timers/state" (R509). -/
def IODev.tick (d : IODev) : IODev :=
  match d.kind with
  | .test w received q n => { d with kind := .test w received q (n - 1) }
  | .custom id n => { d with kind := .custom id (Config.tick id n) }

/-- `irq_j()`: what the device asserts now (R510). -/
def IODev.irq (d : IODev) : Option Request :=
  match d.kind with
  | .test _ _ q n => if n = 0 then q else none
  | .custom id n => Config.irq id n

/-- `ack_j()`: the device once acknowledged; the test device withdraws its request (R514). -/
def IODev.ack (d : IODev) : IODev :=
  match d.kind with
  | .test w received _ n => { d with kind := .test w received none n }
  | .custom id n => { d with kind := .custom id (Config.ack id n) }

end Sys2Proof
end

