-- ==== Sys2Proof/Syntax.lean ====
section
/-! DEFINITION. The instruction set as syntax: one constructor for each of the 202 rows of spec/opcode_table.json, in the
table's order (the documented set of R121). Register, pair and condition codes are constructors here (R110 to R114), so a
term of `Instr` holds exactly the operand values R122 calls legal: the code 6 that R110 excludes has no constructor. -/

namespace Sys2Proof

/-- The 8-bit registers an operand `r` can name (R110). -/
inductive Reg8 where
  | b | c | d | e | h | l | a
deriving DecidableEq, Repr

/-- The pairs an operand `dd` or `ss` can name (R111). -/
inductive Pair where
  | bc | de | hl | sp
deriving DecidableEq, Repr

/-- The pairs an operand `qq` of `PUSH` and `POP` can name (R112). -/
inductive StackPair where
  | bc | de | hl | af
deriving DecidableEq, Repr

/-- The pairs the operand `pp` of `ADD IX,pp` can name (R113). -/
inductive IXPair where
  | bc | de | ix | sp
deriving DecidableEq, Repr

/-- The pairs the operand `rr` of `ADD IY,rr` can name (R113). -/
inductive IYPair where
  | bc | de | iy | sp
deriving DecidableEq, Repr

/-- The condition codes `cc` (R114). -/
inductive Cond where
  | nz | z | nc | c | po | pe | p | m
deriving DecidableEq, Repr

/-- The two index registers, where one shared operation serves both (R23; R100: "the DD and FD tables have the same shape"). -/
inductive Index where
  | ix | iy
deriving DecidableEq, Repr

/-- The instructions. `n` is an 8-bit immediate, `nn` a 16-bit one, `d` a displacement byte and `e` a branch offset byte
(both read as two's complement by the meanings, R116, R118), `b` a bit number, `t` a restart code (R115). Names containing
`Ind` are the forms whose operand is in memory: `ldRegIndHL` is `LD r,(HL)`. -/
inductive Instr where
  -- 40_load8.md: 8-bit loads
  /-- `LD r,r'` (R200) -/
  | ldRegReg (r : Reg8) (r' : Reg8)
  /-- `LD r,n` (R201) -/
  | ldRegImm (r : Reg8) (n : Byte)
  /-- `LD r,(HL)` (R202) -/
  | ldRegIndHL (r : Reg8)
  /-- `LD r,(IX+d)` (R203) -/
  | ldRegIndIX (r : Reg8) (d : Byte)
  /-- `LD r,(IY+d)` (R204) -/
  | ldRegIndIY (r : Reg8) (d : Byte)
  /-- `LD (HL),r` (R205) -/
  | ldIndHLReg (r : Reg8)
  /-- `LD (IX+d),r` (R206) -/
  | ldIndIXReg (d : Byte) (r : Reg8)
  /-- `LD (IY+d),r` (R207) -/
  | ldIndIYReg (d : Byte) (r : Reg8)
  /-- `LD (HL),n` (R208) -/
  | ldIndHLImm (n : Byte)
  /-- `LD (IX+d),n` (R209) -/
  | ldIndIXImm (d : Byte) (n : Byte)
  /-- `LD (IY+d),n` (R210) -/
  | ldIndIYImm (d : Byte) (n : Byte)
  /-- `LD A,(BC)` (R211) -/
  | ldAIndBC
  /-- `LD A,(DE)` (R212) -/
  | ldAIndDE
  /-- `LD A,(nn)` (R213) -/
  | ldAIndNN (nn : Word)
  /-- `LD (BC),A` (R214) -/
  | ldIndBCA
  /-- `LD (DE),A` (R215) -/
  | ldIndDEA
  /-- `LD (nn),A` (R216) -/
  | ldIndNNA (nn : Word)
  /-- `LD A,I` (R217) -/
  | ldAI
  /-- `LD A,R` (R218) -/
  | ldAR
  /-- `LD I,A` (R219) -/
  | ldIA
  /-- `LD R,A` (R220) -/
  | ldRA
  -- 41_load16.md: 16-bit loads, PUSH and POP
  /-- `LD dd,nn` (R231) -/
  | ldPairImm (dd : Pair) (nn : Word)
  /-- `LD IX,nn` (R232) -/
  | ldIXImm (nn : Word)
  /-- `LD IY,nn` (R233) -/
  | ldIYImm (nn : Word)
  /-- `LD HL,(nn)` (R234) -/
  | ldHLIndNN (nn : Word)
  /-- `LD dd,(nn)` (R235) -/
  | ldPairIndNN (dd : Pair) (nn : Word)
  /-- `LD IX,(nn)` (R236) -/
  | ldIXIndNN (nn : Word)
  /-- `LD IY,(nn)` (R237) -/
  | ldIYIndNN (nn : Word)
  /-- `LD (nn),HL` (R238) -/
  | ldIndNNHL (nn : Word)
  /-- `LD (nn),dd` (R239) -/
  | ldIndNNPair (nn : Word) (dd : Pair)
  /-- `LD (nn),IX` (R240) -/
  | ldIndNNIX (nn : Word)
  /-- `LD (nn),IY` (R241) -/
  | ldIndNNIY (nn : Word)
  /-- `LD SP,HL` (R242) -/
  | ldSPHL
  /-- `LD SP,IX` (R243) -/
  | ldSPIX
  /-- `LD SP,IY` (R244) -/
  | ldSPIY
  /-- `PUSH qq` (R245) -/
  | pushPair (qq : StackPair)
  /-- `PUSH IX` (R246) -/
  | pushIX
  /-- `PUSH IY` (R247) -/
  | pushIY
  /-- `POP qq` (R248) -/
  | popPair (qq : StackPair)
  /-- `POP IX` (R249) -/
  | popIX
  /-- `POP IY` (R250) -/
  | popIY
  -- 42_exchange_block.md: exchanges, block transfer and block search
  /-- `EX DE,HL` (R260) -/
  | exDEHL
  /-- `EX AF,AF'` (R261) -/
  | exAFAF
  /-- `EXX` (R262) -/
  | exx
  /-- `EX (SP),HL` (R263) -/
  | exIndSPHL
  /-- `EX (SP),IX` (R264) -/
  | exIndSPIX
  /-- `EX (SP),IY` (R265) -/
  | exIndSPIY
  /-- `LDI` (R266) -/
  | ldi
  /-- `LDIR` (R267) -/
  | ldir
  /-- `LDD` (R268) -/
  | ldd
  /-- `LDDR` (R269) -/
  | lddr
  /-- `CPI` (R270) -/
  | cpi
  /-- `CPIR` (R271) -/
  | cpir
  /-- `CPD` (R272) -/
  | cpd
  /-- `CPDR` (R273) -/
  | cpdr
  -- 43_alu8.md: 8-bit arithmetic and logic
  /-- `ADD A,r` (R280) -/
  | addReg (r : Reg8)
  /-- `ADD A,n` (R281) -/
  | addImm (n : Byte)
  /-- `ADD A,(HL)` (R282) -/
  | addIndHL
  /-- `ADD A,(IX+d)` (R283) -/
  | addIndIX (d : Byte)
  /-- `ADD A,(IY+d)` (R284) -/
  | addIndIY (d : Byte)
  /-- `ADC A,r` (R285) -/
  | adcReg (r : Reg8)
  /-- `ADC A,n` (R286) -/
  | adcImm (n : Byte)
  /-- `ADC A,(HL)` (R287) -/
  | adcIndHL
  /-- `ADC A,(IX+d)` (R288) -/
  | adcIndIX (d : Byte)
  /-- `ADC A,(IY+d)` (R289) -/
  | adcIndIY (d : Byte)
  /-- `SUB r` (R290) -/
  | subReg (r : Reg8)
  /-- `SUB n` (R291) -/
  | subImm (n : Byte)
  /-- `SUB (HL)` (R292) -/
  | subIndHL
  /-- `SUB (IX+d)` (R293) -/
  | subIndIX (d : Byte)
  /-- `SUB (IY+d)` (R294) -/
  | subIndIY (d : Byte)
  /-- `SBC A,r` (R295) -/
  | sbcReg (r : Reg8)
  /-- `SBC A,n` (R296) -/
  | sbcImm (n : Byte)
  /-- `SBC A,(HL)` (R297) -/
  | sbcIndHL
  /-- `SBC A,(IX+d)` (R298) -/
  | sbcIndIX (d : Byte)
  /-- `SBC A,(IY+d)` (R299) -/
  | sbcIndIY (d : Byte)
  /-- `AND r` (R300) -/
  | andReg (r : Reg8)
  /-- `AND n` (R301) -/
  | andImm (n : Byte)
  /-- `AND (HL)` (R302) -/
  | andIndHL
  /-- `AND (IX+d)` (R303) -/
  | andIndIX (d : Byte)
  /-- `AND (IY+d)` (R304) -/
  | andIndIY (d : Byte)
  /-- `XOR r` (R305) -/
  | xorReg (r : Reg8)
  /-- `XOR n` (R306) -/
  | xorImm (n : Byte)
  /-- `XOR (HL)` (R307) -/
  | xorIndHL
  /-- `XOR (IX+d)` (R308) -/
  | xorIndIX (d : Byte)
  /-- `XOR (IY+d)` (R309) -/
  | xorIndIY (d : Byte)
  /-- `OR r` (R310) -/
  | orReg (r : Reg8)
  /-- `OR n` (R311) -/
  | orImm (n : Byte)
  /-- `OR (HL)` (R312) -/
  | orIndHL
  /-- `OR (IX+d)` (R313) -/
  | orIndIX (d : Byte)
  /-- `OR (IY+d)` (R314) -/
  | orIndIY (d : Byte)
  /-- `CP r` (R315) -/
  | cpReg (r : Reg8)
  /-- `CP n` (R316) -/
  | cpImm (n : Byte)
  /-- `CP (HL)` (R317) -/
  | cpIndHL
  /-- `CP (IX+d)` (R318) -/
  | cpIndIX (d : Byte)
  /-- `CP (IY+d)` (R319) -/
  | cpIndIY (d : Byte)
  /-- `INC r` (R320) -/
  | incReg (r : Reg8)
  /-- `INC (HL)` (R321) -/
  | incIndHL
  /-- `INC (IX+d)` (R322) -/
  | incIndIX (d : Byte)
  /-- `INC (IY+d)` (R323) -/
  | incIndIY (d : Byte)
  /-- `DEC r` (R324) -/
  | decReg (r : Reg8)
  /-- `DEC (HL)` (R325) -/
  | decIndHL
  /-- `DEC (IX+d)` (R326) -/
  | decIndIX (d : Byte)
  /-- `DEC (IY+d)` (R327) -/
  | decIndIY (d : Byte)
  -- 44_general_control.md: general-purpose arithmetic and CPU control
  /-- `DAA` (R340) -/
  | daa
  /-- `CPL` (R341) -/
  | cpl
  /-- `NEG` (R342) -/
  | neg
  /-- `CCF` (R343) -/
  | ccf
  /-- `SCF` (R344) -/
  | scf
  /-- `NOP` (R345) -/
  | nop
  /-- `HALT` (R346) -/
  | halt
  /-- `DI` (R347) -/
  | di
  /-- `EI` (R348) -/
  | ei
  /-- `IM 0` (R349) -/
  | im0
  /-- `IM 1` (R350) -/
  | im1
  /-- `IM 2` (R351) -/
  | im2
  -- 45_alu16.md: 16-bit arithmetic
  /-- `ADD HL,ss` (R360) -/
  | addHLPair (ss : Pair)
  /-- `ADC HL,ss` (R361) -/
  | adcHLPair (ss : Pair)
  /-- `SBC HL,ss` (R362) -/
  | sbcHLPair (ss : Pair)
  /-- `ADD IX,pp` (R363) -/
  | addIXPair (pp : IXPair)
  /-- `ADD IY,rr` (R364) -/
  | addIYPair (rr : IYPair)
  /-- `INC ss` (R365) -/
  | incPair (ss : Pair)
  /-- `INC IX` (R366) -/
  | incIX
  /-- `INC IY` (R367) -/
  | incIY
  /-- `DEC ss` (R368) -/
  | decPair (ss : Pair)
  /-- `DEC IX` (R369) -/
  | decIX
  /-- `DEC IY` (R370) -/
  | decIY
  -- 46_rotate_shift.md: rotates and shifts
  /-- `RLCA` (R380) -/
  | rlca
  /-- `RLA` (R381) -/
  | rla
  /-- `RRCA` (R382) -/
  | rrca
  /-- `RRA` (R383) -/
  | rra
  /-- `RLC r` (R384) -/
  | rlcReg (r : Reg8)
  /-- `RLC (HL)` (R385) -/
  | rlcIndHL
  /-- `RLC (IX+d)` (R386) -/
  | rlcIndIX (d : Byte)
  /-- `RLC (IY+d)` (R387) -/
  | rlcIndIY (d : Byte)
  /-- `RRC r` (R388) -/
  | rrcReg (r : Reg8)
  /-- `RRC (HL)` (R389) -/
  | rrcIndHL
  /-- `RRC (IX+d)` (R390) -/
  | rrcIndIX (d : Byte)
  /-- `RRC (IY+d)` (R391) -/
  | rrcIndIY (d : Byte)
  /-- `RL r` (R392) -/
  | rlReg (r : Reg8)
  /-- `RL (HL)` (R393) -/
  | rlIndHL
  /-- `RL (IX+d)` (R394) -/
  | rlIndIX (d : Byte)
  /-- `RL (IY+d)` (R395) -/
  | rlIndIY (d : Byte)
  /-- `RR r` (R396) -/
  | rrReg (r : Reg8)
  /-- `RR (HL)` (R397) -/
  | rrIndHL
  /-- `RR (IX+d)` (R398) -/
  | rrIndIX (d : Byte)
  /-- `RR (IY+d)` (R399) -/
  | rrIndIY (d : Byte)
  /-- `SLA r` (R400) -/
  | slaReg (r : Reg8)
  /-- `SLA (HL)` (R401) -/
  | slaIndHL
  /-- `SLA (IX+d)` (R402) -/
  | slaIndIX (d : Byte)
  /-- `SLA (IY+d)` (R403) -/
  | slaIndIY (d : Byte)
  /-- `SRA r` (R404) -/
  | sraReg (r : Reg8)
  /-- `SRA (HL)` (R405) -/
  | sraIndHL
  /-- `SRA (IX+d)` (R406) -/
  | sraIndIX (d : Byte)
  /-- `SRA (IY+d)` (R407) -/
  | sraIndIY (d : Byte)
  /-- `SRL r` (R408) -/
  | srlReg (r : Reg8)
  /-- `SRL (HL)` (R409) -/
  | srlIndHL
  /-- `SRL (IX+d)` (R410) -/
  | srlIndIX (d : Byte)
  /-- `SRL (IY+d)` (R411) -/
  | srlIndIY (d : Byte)
  /-- `RLD` (R412) -/
  | rld
  /-- `RRD` (R413) -/
  | rrd
  -- 47_bit.md: bit test, set and reset
  /-- `BIT b,r` (R420) -/
  | bitReg (b : BitVec 3) (r : Reg8)
  /-- `BIT b,(HL)` (R421) -/
  | bitIndHL (b : BitVec 3)
  /-- `BIT b,(IX+d)` (R422) -/
  | bitIndIX (b : BitVec 3) (d : Byte)
  /-- `BIT b,(IY+d)` (R423) -/
  | bitIndIY (b : BitVec 3) (d : Byte)
  /-- `SET b,r` (R424) -/
  | setReg (b : BitVec 3) (r : Reg8)
  /-- `SET b,(HL)` (R425) -/
  | setIndHL (b : BitVec 3)
  /-- `SET b,(IX+d)` (R426) -/
  | setIndIX (b : BitVec 3) (d : Byte)
  /-- `SET b,(IY+d)` (R427) -/
  | setIndIY (b : BitVec 3) (d : Byte)
  /-- `RES b,r` (R428) -/
  | resReg (b : BitVec 3) (r : Reg8)
  /-- `RES b,(HL)` (R429) -/
  | resIndHL (b : BitVec 3)
  /-- `RES b,(IX+d)` (R430) -/
  | resIndIX (b : BitVec 3) (d : Byte)
  /-- `RES b,(IY+d)` (R431) -/
  | resIndIY (b : BitVec 3) (d : Byte)
  -- 48_jump_call.md: jumps, calls, returns, restarts
  /-- `JP nn` (R440) -/
  | jp (nn : Word)
  /-- `JP cc,nn` (R441) -/
  | jpCond (cc : Cond) (nn : Word)
  /-- `JR e` (R442) -/
  | jr (e : Byte)
  /-- `JR C,e` (R443) -/
  | jrC (e : Byte)
  /-- `JR NC,e` (R444) -/
  | jrNC (e : Byte)
  /-- `JR Z,e` (R445) -/
  | jrZ (e : Byte)
  /-- `JR NZ,e` (R446) -/
  | jrNZ (e : Byte)
  /-- `JP (HL)` (R447) -/
  | jpHL
  /-- `JP (IX)` (R448) -/
  | jpIX
  /-- `JP (IY)` (R449) -/
  | jpIY
  /-- `DJNZ e` (R450) -/
  | djnz (e : Byte)
  /-- `CALL nn` (R451) -/
  | call (nn : Word)
  /-- `CALL cc,nn` (R452) -/
  | callCond (cc : Cond) (nn : Word)
  /-- `RET` (R453) -/
  | ret
  /-- `RET cc` (R454) -/
  | retCond (cc : Cond)
  /-- `RETI` (R455) -/
  | reti
  /-- `RETN` (R456) -/
  | retn
  /-- `RST p` (R457) -/
  | rst (t : BitVec 3)
  -- 49_io.md: input and output
  /-- `IN A,(n)` (R470) -/
  | inAImm (n : Byte)
  /-- `IN r,(C)` (R471) -/
  | inRegC (r : Reg8)
  /-- `INI` (R472) -/
  | ini
  /-- `INIR` (R473) -/
  | inir
  /-- `IND` (R474) -/
  | ind
  /-- `INDR` (R475) -/
  | indr
  /-- `OUT (n),A` (R476) -/
  | outImmA (n : Byte)
  /-- `OUT (C),r` (R477) -/
  | outCReg (r : Reg8)
  /-- `OUTI` (R478) -/
  | outi
  /-- `OTIR` (R479) -/
  | otir
  /-- `OUTD` (R480) -/
  | outd
  /-- `OTDR` (R481) -/
  | otdr
deriving DecidableEq, Repr

end Sys2Proof
end

