-- ==== Sys2Proof/Decode.lean ====
section
/-! DEFINITION. The decoder (R100 to R124): total on every list of bytes, an empty table entry refused by name; and after it
the encoder, written from the bit patterns of the instruction rules. The decoder is organised as R101 says: a state machine
over the pages BASE, CB, ED, DD, FD, DDCB and FDCB, each a table indexed by one opcode byte. -/

namespace Sys2Proof

/-! ## Byte order and fields of an opcode byte -/

/-- The low byte of a word: the one at the lower address (R69, R117). -/
def loByte (v : Word) : Byte := v.extractLsb' 0 8

/-- The high byte of a word. -/
def hiByte (v : Word) : Byte := v.extractLsb' 8 8

/-- The word whose low byte is `lo` and high byte `hi`: `{hi, lo}` (R69, R117). -/
def wordOf (lo hi : Byte) : Word := hi ++ lo

/-- `sext_16(e)`: bit 7 copied into bits 15..8 (R8, R116, R118). -/
def sext16 (e : Byte) : Word := e.signExtend 16

/-- `x = op[7:6]` (R102). -/
def opX (op : Byte) : Nat := op.toNat / 64

/-- `y = op[5:3]` (R102). -/
def opY (op : Byte) : Nat := op.toNat / 8 % 8

/-- `z = op[2:0]` (R102). -/
def opZ (op : Byte) : Nat := op.toNat % 8

/-- `p = op[5:4]` (R102). -/
def opP (op : Byte) : Nat := op.toNat / 16 % 4

/-- `q = op[3]` (R102). -/
def opQ (op : Byte) : Nat := op.toNat / 8 % 2

/-- The register an `r` field names; the code 6 "is never a register" (R110). -/
def Reg8.ofCode : Nat → Option Reg8
  | 0 => some .b
  | 1 => some .c
  | 2 => some .d
  | 3 => some .e
  | 4 => some .h
  | 5 => some .l
  | 7 => some .a
  | _ => none

/-- R111. -/
def Pair.ofCode : Nat → Pair
  | 0 => .bc
  | 1 => .de
  | 2 => .hl
  | _ => .sp

/-- R112. -/
def StackPair.ofCode : Nat → StackPair
  | 0 => .bc
  | 1 => .de
  | 2 => .hl
  | _ => .af

/-- R113, `pp`. -/
def IXPair.ofCode : Nat → IXPair
  | 0 => .bc
  | 1 => .de
  | 2 => .ix
  | _ => .sp

/-- R113, `rr`. -/
def IYPair.ofCode : Nat → IYPair
  | 0 => .bc
  | 1 => .de
  | 2 => .iy
  | _ => .sp

/-- R114. -/
def Cond.ofCode : Nat → Cond
  | 0 => .nz
  | 1 => .z
  | 2 => .nc
  | 3 => .c
  | 4 => .po
  | 5 => .pe
  | 6 => .p
  | _ => .m

/-! ## The tables -/

/-- One entry of a table (R100): empty, or one instruction form that still needs none, one or two operand bytes. -/
inductive Entry where
  | empty
  | op0 (i : Instr)
  | op1 (f : Byte → Instr)
  | op2 (f : Byte → Byte → Instr)

/-- An entry for a form on a register, and the form its `(HL)` code selects (R110). -/
def Entry.regOr (code : Nat) (onReg : Reg8 → Entry) (other : Entry) : Entry :=
  match Reg8.ofCode code with
  | some r => onReg r
  | none => other

/-- The 8-bit ALU operations on a register, by `op[5:3]` (R119). -/
def aluReg (op : Nat) (r : Reg8) : Instr :=
  match op with
  | 0 => .addReg r
  | 1 => .adcReg r
  | 2 => .subReg r
  | 3 => .sbcReg r
  | 4 => .andReg r
  | 5 => .xorReg r
  | 6 => .orReg r
  | _ => .cpReg r

/-- The 8-bit ALU operations on an immediate, by `op[5:3]` (R119). -/
def aluImm (op : Nat) (n : Byte) : Instr :=
  match op with
  | 0 => .addImm n
  | 1 => .adcImm n
  | 2 => .subImm n
  | 3 => .sbcImm n
  | 4 => .andImm n
  | 5 => .xorImm n
  | 6 => .orImm n
  | _ => .cpImm n

/-- The 8-bit ALU operations on `(HL)`, by `op[5:3]` (R119). -/
def aluIndHL (op : Nat) : Instr :=
  match op with
  | 0 => .addIndHL
  | 1 => .adcIndHL
  | 2 => .subIndHL
  | 3 => .sbcIndHL
  | 4 => .andIndHL
  | 5 => .xorIndHL
  | 6 => .orIndHL
  | _ => .cpIndHL

/-- The 8-bit ALU operations on `(IX+d)`, by `op[5:3]` (R119). -/
def aluIndIX (op : Nat) (d : Byte) : Instr :=
  match op with
  | 0 => .addIndIX d
  | 1 => .adcIndIX d
  | 2 => .subIndIX d
  | 3 => .sbcIndIX d
  | 4 => .andIndIX d
  | 5 => .xorIndIX d
  | 6 => .orIndIX d
  | _ => .cpIndIX d

/-- The 8-bit ALU operations on `(IY+d)`, by `op[5:3]` (R119). -/
def aluIndIY (op : Nat) (d : Byte) : Instr :=
  match op with
  | 0 => .addIndIY d
  | 1 => .adcIndIY d
  | 2 => .subIndIY d
  | 3 => .sbcIndIY d
  | 4 => .andIndIY d
  | 5 => .xorIndIY d
  | 6 => .orIndIY d
  | _ => .cpIndIY d

/-- BASE, rows 0x to 3x of R123's table. -/
def baseEntry0 (op : Byte) : Entry :=
  match opZ op with
  | 0 =>
    match opY op with
    | 0 => .op0 .nop
    | 1 => .op0 .exAFAF
    | 2 => .op1 .djnz
    | 3 => .op1 .jr
    | 4 => .op1 .jrNZ
    | 5 => .op1 .jrZ
    | 6 => .op1 .jrNC
    | _ => .op1 .jrC
  | 1 =>
    match opQ op with
    | 0 => .op2 fun lo hi => .ldPairImm (Pair.ofCode (opP op)) (wordOf lo hi)
    | _ => .op0 (.addHLPair (Pair.ofCode (opP op)))
  | 2 =>
    match opY op with
    | 0 => .op0 .ldIndBCA
    | 1 => .op0 .ldAIndBC
    | 2 => .op0 .ldIndDEA
    | 3 => .op0 .ldAIndDE
    | 4 => .op2 fun lo hi => .ldIndNNHL (wordOf lo hi)
    | 5 => .op2 fun lo hi => .ldHLIndNN (wordOf lo hi)
    | 6 => .op2 fun lo hi => .ldIndNNA (wordOf lo hi)
    | _ => .op2 fun lo hi => .ldAIndNN (wordOf lo hi)
  | 3 =>
    match opQ op with
    | 0 => .op0 (.incPair (Pair.ofCode (opP op)))
    | _ => .op0 (.decPair (Pair.ofCode (opP op)))
  | 4 => .regOr (opY op) (fun r => .op0 (.incReg r)) (.op0 .incIndHL)
  | 5 => .regOr (opY op) (fun r => .op0 (.decReg r)) (.op0 .decIndHL)
  | 6 => .regOr (opY op) (fun r => .op1 (.ldRegImm r)) (.op1 .ldIndHLImm)
  | _ =>
    match opY op with
    | 0 => .op0 .rlca
    | 1 => .op0 .rrca
    | 2 => .op0 .rla
    | 3 => .op0 .rra
    | 4 => .op0 .daa
    | 5 => .op0 .cpl
    | 6 => .op0 .scf
    | _ => .op0 .ccf

/-- BASE, rows 4x to 7x: the 8-bit loads, and `HALT` where both fields are 6 (R200, R346). -/
def baseEntry1 (op : Byte) : Entry :=
  .regOr (opY op)
    (fun r => .regOr (opZ op) (fun r' => .op0 (.ldRegReg r r')) (.op0 (.ldRegIndHL r)))
    (.regOr (opZ op) (fun r => .op0 (.ldIndHLReg r)) (.op0 .halt))

/-- BASE, rows 8x to Bx: the 8-bit ALU operations. -/
def baseEntry2 (op : Byte) : Entry :=
  .regOr (opZ op) (fun r => .op0 (aluReg (opY op) r)) (.op0 (aluIndHL (opY op)))

/-- BASE, rows Cx to Fx. The four bytes that lead on to another page are empty here: `decode` never looks them up (R101). -/
def baseEntry3 (op : Byte) : Entry :=
  match opZ op with
  | 0 => .op0 (.retCond (Cond.ofCode (opY op)))
  | 1 =>
    match opQ op with
    | 0 => .op0 (.popPair (StackPair.ofCode (opP op)))
    | _ =>
      match opP op with
      | 0 => .op0 .ret
      | 1 => .op0 .exx
      | 2 => .op0 .jpHL
      | _ => .op0 .ldSPHL
  | 2 => .op2 fun lo hi => .jpCond (Cond.ofCode (opY op)) (wordOf lo hi)
  | 3 =>
    match opY op with
    | 0 => .op2 fun lo hi => .jp (wordOf lo hi)
    | 1 => .empty
    | 2 => .op1 .outImmA
    | 3 => .op1 .inAImm
    | 4 => .op0 .exIndSPHL
    | 5 => .op0 .exDEHL
    | 6 => .op0 .di
    | _ => .op0 .ei
  | 4 => .op2 fun lo hi => .callCond (Cond.ofCode (opY op)) (wordOf lo hi)
  | 5 =>
    match opQ op with
    | 0 => .op0 (.pushPair (StackPair.ofCode (opP op)))
    | _ =>
      match opP op with
      | 0 => .op2 fun lo hi => .call (wordOf lo hi)
      | _ => .empty
  | 6 => .op1 (aluImm (opY op))
  | _ => .op0 (.rst (op.extractLsb' 3 3))

/-- The BASE page (R123). -/
def baseEntry (op : Byte) : Entry :=
  match opX op with
  | 0 => baseEntry0 op
  | 1 => baseEntry1 op
  | 2 => baseEntry2 op
  | _ => baseEntry3 op

/-- The CB page (R123): "the 8 bytes `30..37` empty". -/
def cbEntry (op : Byte) : Entry :=
  match opX op with
  | 0 =>
    match opY op with
    | 0 => .regOr (opZ op) (fun r => .op0 (.rlcReg r)) (.op0 .rlcIndHL)
    | 1 => .regOr (opZ op) (fun r => .op0 (.rrcReg r)) (.op0 .rrcIndHL)
    | 2 => .regOr (opZ op) (fun r => .op0 (.rlReg r)) (.op0 .rlIndHL)
    | 3 => .regOr (opZ op) (fun r => .op0 (.rrReg r)) (.op0 .rrIndHL)
    | 4 => .regOr (opZ op) (fun r => .op0 (.slaReg r)) (.op0 .slaIndHL)
    | 5 => .regOr (opZ op) (fun r => .op0 (.sraReg r)) (.op0 .sraIndHL)
    | 6 => .empty
    | _ => .regOr (opZ op) (fun r => .op0 (.srlReg r)) (.op0 .srlIndHL)
  | 1 => .regOr (opZ op) (fun r => .op0 (.bitReg (op.extractLsb' 3 3) r)) (.op0 (.bitIndHL (op.extractLsb' 3 3)))
  | 2 => .regOr (opZ op) (fun r => .op0 (.resReg (op.extractLsb' 3 3) r)) (.op0 (.resIndHL (op.extractLsb' 3 3)))
  | _ => .regOr (opZ op) (fun r => .op0 (.setReg (op.extractLsb' 3 3) r)) (.op0 (.setIndHL (op.extractLsb' 3 3)))

/-- ED page, rows 4x to 7x (R123). -/
def edEntry1 (op : Byte) : Entry :=
  match opZ op with
  | 0 => .regOr (opY op) (fun r => .op0 (.inRegC r)) .empty
  | 1 => .regOr (opY op) (fun r => .op0 (.outCReg r)) .empty
  | 2 =>
    match opQ op with
    | 0 => .op0 (.sbcHLPair (Pair.ofCode (opP op)))
    | _ => .op0 (.adcHLPair (Pair.ofCode (opP op)))
  | 3 =>
    match opQ op with
    | 0 => .op2 fun lo hi => .ldIndNNPair (wordOf lo hi) (Pair.ofCode (opP op))
    | _ => .op2 fun lo hi => .ldPairIndNN (Pair.ofCode (opP op)) (wordOf lo hi)
  | 4 =>
    match opY op with
    | 0 => .op0 .neg
    | _ => .empty
  | 5 =>
    match opY op with
    | 0 => .op0 .retn
    | 1 => .op0 .reti
    | _ => .empty
  | 6 =>
    match opY op with
    | 0 => .op0 .im0
    | 2 => .op0 .im1
    | 3 => .op0 .im2
    | _ => .empty
  | _ =>
    match opY op with
    | 0 => .op0 .ldIA
    | 1 => .op0 .ldRA
    | 2 => .op0 .ldAI
    | 3 => .op0 .ldAR
    | 4 => .op0 .rrd
    | 5 => .op0 .rld
    | _ => .empty

/-- ED page, rows Ax and Bx: the block instructions `ED 101rr0ff` (R119, R123). -/
def edEntry2 (op : Byte) : Entry :=
  match opY op with
  | 4 =>
    match opZ op with
    | 0 => .op0 .ldi
    | 1 => .op0 .cpi
    | 2 => .op0 .ini
    | 3 => .op0 .outi
    | _ => .empty
  | 5 =>
    match opZ op with
    | 0 => .op0 .ldd
    | 1 => .op0 .cpd
    | 2 => .op0 .ind
    | 3 => .op0 .outd
    | _ => .empty
  | 6 =>
    match opZ op with
    | 0 => .op0 .ldir
    | 1 => .op0 .cpir
    | 2 => .op0 .inir
    | 3 => .op0 .otir
    | _ => .empty
  | 7 =>
    match opZ op with
    | 0 => .op0 .lddr
    | 1 => .op0 .cpdr
    | 2 => .op0 .indr
    | 3 => .op0 .otdr
    | _ => .empty
  | _ => .empty

/-- The ED page (R123): 58 entries, all others empty (R121 (d)). -/
def edEntry (op : Byte) : Entry :=
  match opX op with
  | 1 => edEntry1 op
  | 2 => edEntry2 op
  | _ => .empty

/-- DD page, rows 0x to 3x (R124). -/
def ddEntry0 (op : Byte) : Entry :=
  match opZ op with
  | 1 =>
    match opQ op with
    | 0 =>
      match opP op with
      | 2 => .op2 fun lo hi => .ldIXImm (wordOf lo hi)
      | _ => .empty
    | _ => .op0 (.addIXPair (IXPair.ofCode (opP op)))
  | 2 =>
    match opY op with
    | 4 => .op2 fun lo hi => .ldIndNNIX (wordOf lo hi)
    | 5 => .op2 fun lo hi => .ldIXIndNN (wordOf lo hi)
    | _ => .empty
  | 3 =>
    match opY op with
    | 4 => .op0 .incIX
    | 5 => .op0 .decIX
    | _ => .empty
  | 4 =>
    match opY op with
    | 6 => .op1 .incIndIX
    | _ => .empty
  | 5 =>
    match opY op with
    | 6 => .op1 .decIndIX
    | _ => .empty
  | 6 =>
    match opY op with
    | 6 => .op2 .ldIndIXImm
    | _ => .empty
  | _ => .empty

/-- DD page, rows 4x to 7x: the forms where exactly one field is 6 (R124; `DD 76` is empty). -/
def ddEntry1 (op : Byte) : Entry :=
  .regOr (opY op)
    (fun r => .regOr (opZ op) (fun _ => .empty) (.op1 (.ldRegIndIX r)))
    (.regOr (opZ op) (fun r => .op1 fun d => .ldIndIXReg d r) .empty)

/-- DD page, rows Cx to Fx (R124). The byte `CB` leads on to DDCB and is not looked up here (R101). -/
def ddEntry3 (op : Byte) : Entry :=
  match opZ op with
  | 1 =>
    match opY op with
    | 4 => .op0 .popIX
    | 5 => .op0 .jpIX
    | 7 => .op0 .ldSPIX
    | _ => .empty
  | 3 =>
    match opY op with
    | 4 => .op0 .exIndSPIX
    | _ => .empty
  | 5 =>
    match opY op with
    | 4 => .op0 .pushIX
    | _ => .empty
  | _ => .empty

/-- The DD page (R124): "39 instruction entries plus the `CB` entry", all other bytes empty (R121 (b)). -/
def ddEntry (op : Byte) : Entry :=
  match opX op with
  | 0 => ddEntry0 op
  | 1 => ddEntry1 op
  | 2 => .regOr (opZ op) (fun _ => .empty) (.op1 (aluIndIX (opY op)))
  | _ => ddEntry3 op

/-- The DDCB page (R124): the entry for a fourth byte, still to be given the displacement. Only bytes whose low three bits are
`110` are entries, `36` apart (R121 (c)). -/
def ddcbEntry (op : Byte) : Option (Byte → Instr) :=
  match opZ op with
  | 6 =>
    match opX op with
    | 0 =>
      match opY op with
      | 0 => some .rlcIndIX
      | 1 => some .rrcIndIX
      | 2 => some .rlIndIX
      | 3 => some .rrIndIX
      | 4 => some .slaIndIX
      | 5 => some .sraIndIX
      | 6 => none
      | _ => some .srlIndIX
    | 1 => some (.bitIndIX (op.extractLsb' 3 3))
    | 2 => some (.resIndIX (op.extractLsb' 3 3))
    | _ => some (.setIndIX (op.extractLsb' 3 3))
  | _ => none

/-- FD page, rows 0x to 3x (R124). -/
def fdEntry0 (op : Byte) : Entry :=
  match opZ op with
  | 1 =>
    match opQ op with
    | 0 =>
      match opP op with
      | 2 => .op2 fun lo hi => .ldIYImm (wordOf lo hi)
      | _ => .empty
    | _ => .op0 (.addIYPair (IYPair.ofCode (opP op)))
  | 2 =>
    match opY op with
    | 4 => .op2 fun lo hi => .ldIndNNIY (wordOf lo hi)
    | 5 => .op2 fun lo hi => .ldIYIndNN (wordOf lo hi)
    | _ => .empty
  | 3 =>
    match opY op with
    | 4 => .op0 .incIY
    | 5 => .op0 .decIY
    | _ => .empty
  | 4 =>
    match opY op with
    | 6 => .op1 .incIndIY
    | _ => .empty
  | 5 =>
    match opY op with
    | 6 => .op1 .decIndIY
    | _ => .empty
  | 6 =>
    match opY op with
    | 6 => .op2 .ldIndIYImm
    | _ => .empty
  | _ => .empty

/-- FD page, rows 4x to 7x: the forms where exactly one field is 6 (R124; `FD 76` is empty). -/
def fdEntry1 (op : Byte) : Entry :=
  .regOr (opY op)
    (fun r => .regOr (opZ op) (fun _ => .empty) (.op1 (.ldRegIndIY r)))
    (.regOr (opZ op) (fun r => .op1 fun d => .ldIndIYReg d r) .empty)

/-- FD page, rows Cx to Fx (R124). The byte `CB` leads on to FDCB and is not looked up here (R101). -/
def fdEntry3 (op : Byte) : Entry :=
  match opZ op with
  | 1 =>
    match opY op with
    | 4 => .op0 .popIY
    | 5 => .op0 .jpIY
    | 7 => .op0 .ldSPIY
    | _ => .empty
  | 3 =>
    match opY op with
    | 4 => .op0 .exIndSPIY
    | _ => .empty
  | 5 =>
    match opY op with
    | 4 => .op0 .pushIY
    | _ => .empty
  | _ => .empty

/-- The FD page (R124): "the same 39 bytes plus `CB`", all other bytes empty (R121 (b)). -/
def fdEntry (op : Byte) : Entry :=
  match opX op with
  | 0 => fdEntry0 op
  | 1 => fdEntry1 op
  | 2 => .regOr (opZ op) (fun _ => .empty) (.op1 (aluIndIY (opY op)))
  | _ => fdEntry3 op

/-- The FDCB page (R124): the entry for a fourth byte, still to be given the displacement. Only bytes whose low three bits are
`110` are entries, `36` apart (R121 (c)). -/
def fdcbEntry (op : Byte) : Option (Byte → Instr) :=
  match opZ op with
  | 6 =>
    match opX op with
    | 0 =>
      match opY op with
      | 0 => some .rlcIndIY
      | 1 => some .rrcIndIY
      | 2 => some .rlIndIY
      | 3 => some .rrIndIY
      | 4 => some .slaIndIY
      | 5 => some .sraIndIY
      | 6 => none
      | _ => some .srlIndIY
    | 1 => some (.bitIndIY (op.extractLsb' 3 3))
    | 2 => some (.resIndIY (op.extractLsb' 3 3))
    | _ => some (.setIndIY (op.extractLsb' 3 3))
  | _ => none

/-! ## The decoder's state machine -/

/-- What a list of bytes decodes to: an instruction and the bytes after it; nothing yet, because the bytes end before the
instruction does; or `InvalidInstruction`, with the bytes "up to and including the one whose lookup failed" (R120). -/
inductive Decoded where
  | ok (i : Instr) (rest : List Byte)
  | incomplete
  | invalid (bytes : List Byte)
deriving DecidableEq, Repr

/-- Read the operand bytes an entry asks for; `seen` are the bytes read to find it (R101, R108). -/
def Entry.finish (e : Entry) (seen bs : List Byte) : Decoded :=
  match e with
  | .empty => .invalid seen
  | .op0 i => .ok i bs
  | .op1 f =>
    match bs with
    | n :: rest => .ok (f n) rest
    | [] => .incomplete
  | .op2 f =>
    match bs with
    | m :: n :: rest => .ok (f m n) rest
    | _ => .incomplete

/-- The DDCB and FDCB formats: displacement, then the table index (R101 (4), R106). -/
def decodeIndexedCb (table : Byte → Option (Byte → Instr)) (b0 b1 : Byte) (bs : List Byte) : Decoded :=
  match bs with
  | d :: op :: rest =>
    match table op with
    | some f => .ok (f d) rest
    | none => .invalid [b0, b1, d, op]
  | _ => .incomplete

/-- The state machine of R101, on the bytes after the first one. -/
def decodeAfter (b0 : Byte) (bs : List Byte) : Decoded :=
  if b0 = 0xCB then
    match bs with
    | b1 :: rest => (cbEntry b1).finish [b0, b1] rest
    | [] => .incomplete
  else if b0 = 0xED then
    match bs with
    | b1 :: rest => (edEntry b1).finish [b0, b1] rest
    | [] => .incomplete
  else if b0 = 0xDD then
    match bs with
    | b1 :: rest =>
      if b1 = 0xCB then decodeIndexedCb ddcbEntry b0 b1 rest else (ddEntry b1).finish [b0, b1] rest
    | [] => .incomplete
  else if b0 = 0xFD then
    match bs with
    | b1 :: rest =>
      if b1 = 0xCB then decodeIndexedCb fdcbEntry b0 b1 rest else (fdEntry b1).finish [b0, b1] rest
    | [] => .incomplete
  else (baseEntry b0).finish [b0] bs

/-- The decoder (R101): "a pure function of the bytes read". -/
def decode (bs : List Byte) : Decoded :=
  match bs with
  | b0 :: rest => decodeAfter b0 rest
  | [] => .incomplete

/-! ## The encoder -/

/-- R110. -/
def Reg8.code : Reg8 → BitVec 3
  | .b => 0
  | .c => 1
  | .d => 2
  | .e => 3
  | .h => 4
  | .l => 5
  | .a => 7

/-- R111. -/
def Pair.code : Pair → BitVec 2
  | .bc => 0
  | .de => 1
  | .hl => 2
  | .sp => 3

/-- R112. -/
def StackPair.code : StackPair → BitVec 2
  | .bc => 0
  | .de => 1
  | .hl => 2
  | .af => 3

/-- R113, `pp`. -/
def IXPair.code : IXPair → BitVec 2
  | .bc => 0
  | .de => 1
  | .ix => 2
  | .sp => 3

/-- R113, `rr`. -/
def IYPair.code : IYPair → BitVec 2
  | .bc => 0
  | .de => 1
  | .iy => 2
  | .sp => 3

/-- R114. -/
def Cond.code : Cond → BitVec 3
  | .nz => 0
  | .z => 1
  | .nc => 2
  | .c => 3
  | .po => 4
  | .pe => 5
  | .p => 6
  | .m => 7

/-- The bytes of an instruction, in address order: the `Encoding` clause of each instruction rule, bit for bit. -/
def encode : Instr → List Byte
  | .ldRegReg r r' => [0b01#2 ++ r.code ++ r'.code]
  | .ldRegImm r n => [0b00#2 ++ r.code ++ 0b110#3, n]
  | .ldRegIndHL r => [0b01#2 ++ r.code ++ 0b110#3]
  | .ldRegIndIX r d => [0xDD, 0b01#2 ++ r.code ++ 0b110#3, d]
  | .ldRegIndIY r d => [0xFD, 0b01#2 ++ r.code ++ 0b110#3, d]
  | .ldIndHLReg r => [0b01110#5 ++ r.code]
  | .ldIndIXReg d r => [0xDD, 0b01110#5 ++ r.code, d]
  | .ldIndIYReg d r => [0xFD, 0b01110#5 ++ r.code, d]
  | .ldIndHLImm n => [0x36, n]
  | .ldIndIXImm d n => [0xDD, 0x36, d, n]
  | .ldIndIYImm d n => [0xFD, 0x36, d, n]
  | .ldAIndBC => [0x0A]
  | .ldAIndDE => [0x1A]
  | .ldAIndNN nn => [0x3A, loByte nn, hiByte nn]
  | .ldIndBCA => [0x02]
  | .ldIndDEA => [0x12]
  | .ldIndNNA nn => [0x32, loByte nn, hiByte nn]
  | .ldAI => [0xED, 0x57]
  | .ldAR => [0xED, 0x5F]
  | .ldIA => [0xED, 0x47]
  | .ldRA => [0xED, 0x4F]
  | .ldPairImm dd nn => [0b00#2 ++ dd.code ++ 0b0001#4, loByte nn, hiByte nn]
  | .ldIXImm nn => [0xDD, 0x21, loByte nn, hiByte nn]
  | .ldIYImm nn => [0xFD, 0x21, loByte nn, hiByte nn]
  | .ldHLIndNN nn => [0x2A, loByte nn, hiByte nn]
  | .ldPairIndNN dd nn => [0xED, 0b01#2 ++ dd.code ++ 0b1011#4, loByte nn, hiByte nn]
  | .ldIXIndNN nn => [0xDD, 0x2A, loByte nn, hiByte nn]
  | .ldIYIndNN nn => [0xFD, 0x2A, loByte nn, hiByte nn]
  | .ldIndNNHL nn => [0x22, loByte nn, hiByte nn]
  | .ldIndNNPair nn dd => [0xED, 0b01#2 ++ dd.code ++ 0b0011#4, loByte nn, hiByte nn]
  | .ldIndNNIX nn => [0xDD, 0x22, loByte nn, hiByte nn]
  | .ldIndNNIY nn => [0xFD, 0x22, loByte nn, hiByte nn]
  | .ldSPHL => [0xF9]
  | .ldSPIX => [0xDD, 0xF9]
  | .ldSPIY => [0xFD, 0xF9]
  | .pushPair qq => [0b11#2 ++ qq.code ++ 0b0101#4]
  | .pushIX => [0xDD, 0xE5]
  | .pushIY => [0xFD, 0xE5]
  | .popPair qq => [0b11#2 ++ qq.code ++ 0b0001#4]
  | .popIX => [0xDD, 0xE1]
  | .popIY => [0xFD, 0xE1]
  | .exDEHL => [0xEB]
  | .exAFAF => [0x08]
  | .exx => [0xD9]
  | .exIndSPHL => [0xE3]
  | .exIndSPIX => [0xDD, 0xE3]
  | .exIndSPIY => [0xFD, 0xE3]
  | .ldi => [0xED, 0xA0]
  | .ldir => [0xED, 0xB0]
  | .ldd => [0xED, 0xA8]
  | .lddr => [0xED, 0xB8]
  | .cpi => [0xED, 0xA1]
  | .cpir => [0xED, 0xB1]
  | .cpd => [0xED, 0xA9]
  | .cpdr => [0xED, 0xB9]
  | .addReg r => [0b10000#5 ++ r.code]
  | .addImm n => [0xC6, n]
  | .addIndHL => [0x86]
  | .addIndIX d => [0xDD, 0x86, d]
  | .addIndIY d => [0xFD, 0x86, d]
  | .adcReg r => [0b10001#5 ++ r.code]
  | .adcImm n => [0xCE, n]
  | .adcIndHL => [0x8E]
  | .adcIndIX d => [0xDD, 0x8E, d]
  | .adcIndIY d => [0xFD, 0x8E, d]
  | .subReg r => [0b10010#5 ++ r.code]
  | .subImm n => [0xD6, n]
  | .subIndHL => [0x96]
  | .subIndIX d => [0xDD, 0x96, d]
  | .subIndIY d => [0xFD, 0x96, d]
  | .sbcReg r => [0b10011#5 ++ r.code]
  | .sbcImm n => [0xDE, n]
  | .sbcIndHL => [0x9E]
  | .sbcIndIX d => [0xDD, 0x9E, d]
  | .sbcIndIY d => [0xFD, 0x9E, d]
  | .andReg r => [0b10100#5 ++ r.code]
  | .andImm n => [0xE6, n]
  | .andIndHL => [0xA6]
  | .andIndIX d => [0xDD, 0xA6, d]
  | .andIndIY d => [0xFD, 0xA6, d]
  | .xorReg r => [0b10101#5 ++ r.code]
  | .xorImm n => [0xEE, n]
  | .xorIndHL => [0xAE]
  | .xorIndIX d => [0xDD, 0xAE, d]
  | .xorIndIY d => [0xFD, 0xAE, d]
  | .orReg r => [0b10110#5 ++ r.code]
  | .orImm n => [0xF6, n]
  | .orIndHL => [0xB6]
  | .orIndIX d => [0xDD, 0xB6, d]
  | .orIndIY d => [0xFD, 0xB6, d]
  | .cpReg r => [0b10111#5 ++ r.code]
  | .cpImm n => [0xFE, n]
  | .cpIndHL => [0xBE]
  | .cpIndIX d => [0xDD, 0xBE, d]
  | .cpIndIY d => [0xFD, 0xBE, d]
  | .incReg r => [0b00#2 ++ r.code ++ 0b100#3]
  | .incIndHL => [0x34]
  | .incIndIX d => [0xDD, 0x34, d]
  | .incIndIY d => [0xFD, 0x34, d]
  | .decReg r => [0b00#2 ++ r.code ++ 0b101#3]
  | .decIndHL => [0x35]
  | .decIndIX d => [0xDD, 0x35, d]
  | .decIndIY d => [0xFD, 0x35, d]
  | .daa => [0x27]
  | .cpl => [0x2F]
  | .neg => [0xED, 0x44]
  | .ccf => [0x3F]
  | .scf => [0x37]
  | .nop => [0x00]
  | .halt => [0x76]
  | .di => [0xF3]
  | .ei => [0xFB]
  | .im0 => [0xED, 0x46]
  | .im1 => [0xED, 0x56]
  | .im2 => [0xED, 0x5E]
  | .addHLPair ss => [0b00#2 ++ ss.code ++ 0b1001#4]
  | .adcHLPair ss => [0xED, 0b01#2 ++ ss.code ++ 0b1010#4]
  | .sbcHLPair ss => [0xED, 0b01#2 ++ ss.code ++ 0b0010#4]
  | .addIXPair pp => [0xDD, 0b00#2 ++ pp.code ++ 0b1001#4]
  | .addIYPair rr => [0xFD, 0b00#2 ++ rr.code ++ 0b1001#4]
  | .incPair ss => [0b00#2 ++ ss.code ++ 0b0011#4]
  | .incIX => [0xDD, 0x23]
  | .incIY => [0xFD, 0x23]
  | .decPair ss => [0b00#2 ++ ss.code ++ 0b1011#4]
  | .decIX => [0xDD, 0x2B]
  | .decIY => [0xFD, 0x2B]
  | .rlca => [0x07]
  | .rla => [0x17]
  | .rrca => [0x0F]
  | .rra => [0x1F]
  | .rlcReg r => [0xCB, 0b00000#5 ++ r.code]
  | .rlcIndHL => [0xCB, 0x06]
  | .rlcIndIX d => [0xDD, 0xCB, d, 0x06]
  | .rlcIndIY d => [0xFD, 0xCB, d, 0x06]
  | .rrcReg r => [0xCB, 0b00001#5 ++ r.code]
  | .rrcIndHL => [0xCB, 0x0E]
  | .rrcIndIX d => [0xDD, 0xCB, d, 0x0E]
  | .rrcIndIY d => [0xFD, 0xCB, d, 0x0E]
  | .rlReg r => [0xCB, 0b00010#5 ++ r.code]
  | .rlIndHL => [0xCB, 0x16]
  | .rlIndIX d => [0xDD, 0xCB, d, 0x16]
  | .rlIndIY d => [0xFD, 0xCB, d, 0x16]
  | .rrReg r => [0xCB, 0b00011#5 ++ r.code]
  | .rrIndHL => [0xCB, 0x1E]
  | .rrIndIX d => [0xDD, 0xCB, d, 0x1E]
  | .rrIndIY d => [0xFD, 0xCB, d, 0x1E]
  | .slaReg r => [0xCB, 0b00100#5 ++ r.code]
  | .slaIndHL => [0xCB, 0x26]
  | .slaIndIX d => [0xDD, 0xCB, d, 0x26]
  | .slaIndIY d => [0xFD, 0xCB, d, 0x26]
  | .sraReg r => [0xCB, 0b00101#5 ++ r.code]
  | .sraIndHL => [0xCB, 0x2E]
  | .sraIndIX d => [0xDD, 0xCB, d, 0x2E]
  | .sraIndIY d => [0xFD, 0xCB, d, 0x2E]
  | .srlReg r => [0xCB, 0b00111#5 ++ r.code]
  | .srlIndHL => [0xCB, 0x3E]
  | .srlIndIX d => [0xDD, 0xCB, d, 0x3E]
  | .srlIndIY d => [0xFD, 0xCB, d, 0x3E]
  | .rld => [0xED, 0x6F]
  | .rrd => [0xED, 0x67]
  | .bitReg b r => [0xCB, 0b01#2 ++ b ++ r.code]
  | .bitIndHL b => [0xCB, 0b01#2 ++ b ++ 0b110#3]
  | .bitIndIX b d => [0xDD, 0xCB, d, 0b01#2 ++ b ++ 0b110#3]
  | .bitIndIY b d => [0xFD, 0xCB, d, 0b01#2 ++ b ++ 0b110#3]
  | .setReg b r => [0xCB, 0b11#2 ++ b ++ r.code]
  | .setIndHL b => [0xCB, 0b11#2 ++ b ++ 0b110#3]
  | .setIndIX b d => [0xDD, 0xCB, d, 0b11#2 ++ b ++ 0b110#3]
  | .setIndIY b d => [0xFD, 0xCB, d, 0b11#2 ++ b ++ 0b110#3]
  | .resReg b r => [0xCB, 0b10#2 ++ b ++ r.code]
  | .resIndHL b => [0xCB, 0b10#2 ++ b ++ 0b110#3]
  | .resIndIX b d => [0xDD, 0xCB, d, 0b10#2 ++ b ++ 0b110#3]
  | .resIndIY b d => [0xFD, 0xCB, d, 0b10#2 ++ b ++ 0b110#3]
  | .jp nn => [0xC3, loByte nn, hiByte nn]
  | .jpCond cc nn => [0b11#2 ++ cc.code ++ 0b010#3, loByte nn, hiByte nn]
  | .jr e => [0x18, e]
  | .jrC e => [0x38, e]
  | .jrNC e => [0x30, e]
  | .jrZ e => [0x28, e]
  | .jrNZ e => [0x20, e]
  | .jpHL => [0xE9]
  | .jpIX => [0xDD, 0xE9]
  | .jpIY => [0xFD, 0xE9]
  | .djnz e => [0x10, e]
  | .call nn => [0xCD, loByte nn, hiByte nn]
  | .callCond cc nn => [0b11#2 ++ cc.code ++ 0b100#3, loByte nn, hiByte nn]
  | .ret => [0xC9]
  | .retCond cc => [0b11#2 ++ cc.code ++ 0b000#3]
  | .reti => [0xED, 0x4D]
  | .retn => [0xED, 0x45]
  | .rst t => [0b11#2 ++ t ++ 0b111#3]
  | .inAImm n => [0xDB, n]
  | .inRegC r => [0xED, 0b01#2 ++ r.code ++ 0b000#3]
  | .ini => [0xED, 0xA2]
  | .inir => [0xED, 0xB2]
  | .ind => [0xED, 0xAA]
  | .indr => [0xED, 0xBA]
  | .outImmA n => [0xD3, n]
  | .outCReg r => [0xED, 0b01#2 ++ r.code ++ 0b001#3]
  | .outi => [0xED, 0xA3]
  | .otir => [0xED, 0xB3]
  | .outd => [0xED, 0xAB]
  | .otdr => [0xED, 0xBB]

/-- The length of an instruction in bytes: "1 to 4 bytes" (R100, R107, R108). -/
def Instr.length (i : Instr) : Nat := (encode i).length

/-! ## Formats -/

/-- "The twelve formats" (R103 to R107), in R107's order. -/
inductive Format where
  | op
  | opN
  | opNN
  | opE
  | cbOp
  | edOp
  | edOpNN
  | xyOp
  | xyOpNN
  | xyOpD
  | xyOpDN
  | xyCbDOp
deriving DecidableEq, Repr

/-- The lengths of the formats: "`OP` 1, `OP_N` 2, `OP_NN` 3, `OP_E` 2, `CB_OP` 2, `ED_OP` 2, `ED_OP_NN` 4, `XY_OP` 2, ..." (R107). -/
def Format.length : Format → Nat
  | .op => 1
  | .opN => 2
  | .opNN => 3
  | .opE => 2
  | .cbOp => 2
  | .edOp => 2
  | .edOpNN => 4
  | .xyOp => 2
  | .xyOpNN => 4
  | .xyOpD => 3
  | .xyOpDN => 4
  | .xyCbDOp => 4

/-- The format of each row of the opcode table. -/
def Instr.format : Instr → Format
  | .ldRegReg .. | .ldRegIndHL .. | .ldIndHLReg .. | .ldAIndBC | .ldAIndDE | .ldIndBCA | .ldIndDEA | .ldSPHL
  | .pushPair .. | .popPair .. | .exDEHL | .exAFAF | .exx | .exIndSPHL | .addReg .. | .addIndHL | .adcReg ..
  | .adcIndHL | .subReg .. | .subIndHL | .sbcReg .. | .sbcIndHL | .andReg .. | .andIndHL | .xorReg ..
  | .xorIndHL | .orReg .. | .orIndHL | .cpReg .. | .cpIndHL | .incReg .. | .incIndHL | .decReg .. | .decIndHL
  | .daa | .cpl | .ccf | .scf | .nop | .halt | .di | .ei | .addHLPair .. | .incPair .. | .decPair .. | .rlca
  | .rla | .rrca | .rra | .jpHL | .ret | .retCond .. | .rst .. => .op
  | .ldRegImm .. | .ldIndHLImm .. | .addImm .. | .adcImm .. | .subImm .. | .sbcImm .. | .andImm .. | .xorImm ..
  | .orImm .. | .cpImm .. | .inAImm .. | .outImmA .. => .opN
  | .ldAIndNN .. | .ldIndNNA .. | .ldPairImm .. | .ldHLIndNN .. | .ldIndNNHL .. | .jp .. | .jpCond ..
  | .call .. | .callCond .. => .opNN
  | .jr .. | .jrC .. | .jrNC .. | .jrZ .. | .jrNZ .. | .djnz .. => .opE
  | .rlcReg .. | .rlcIndHL | .rrcReg .. | .rrcIndHL | .rlReg .. | .rlIndHL | .rrReg .. | .rrIndHL | .slaReg ..
  | .slaIndHL | .sraReg .. | .sraIndHL | .srlReg .. | .srlIndHL | .bitReg .. | .bitIndHL .. | .setReg ..
  | .setIndHL .. | .resReg .. | .resIndHL .. => .cbOp
  | .ldAI | .ldAR | .ldIA | .ldRA | .ldi | .ldir | .ldd | .lddr | .cpi | .cpir | .cpd | .cpdr | .neg | .im0
  | .im1 | .im2 | .adcHLPair .. | .sbcHLPair .. | .rld | .rrd | .reti | .retn | .inRegC .. | .ini | .inir
  | .ind | .indr | .outCReg .. | .outi | .otir | .outd | .otdr => .edOp
  | .ldPairIndNN .. | .ldIndNNPair .. => .edOpNN
  | .ldSPIX | .ldSPIY | .pushIX | .pushIY | .popIX | .popIY | .exIndSPIX | .exIndSPIY | .addIXPair ..
  | .addIYPair .. | .incIX | .incIY | .decIX | .decIY | .jpIX | .jpIY => .xyOp
  | .ldIXImm .. | .ldIYImm .. | .ldIXIndNN .. | .ldIYIndNN .. | .ldIndNNIX .. | .ldIndNNIY .. => .xyOpNN
  | .ldRegIndIX .. | .ldRegIndIY .. | .ldIndIXReg .. | .ldIndIYReg .. | .addIndIX .. | .addIndIY ..
  | .adcIndIX .. | .adcIndIY .. | .subIndIX .. | .subIndIY .. | .sbcIndIX .. | .sbcIndIY .. | .andIndIX ..
  | .andIndIY .. | .xorIndIX .. | .xorIndIY .. | .orIndIX .. | .orIndIY .. | .cpIndIX .. | .cpIndIY ..
  | .incIndIX .. | .incIndIY .. | .decIndIX .. | .decIndIY .. => .xyOpD
  | .ldIndIXImm .. | .ldIndIYImm .. => .xyOpDN
  | .rlcIndIX .. | .rlcIndIY .. | .rrcIndIX .. | .rrcIndIY .. | .rlIndIX .. | .rlIndIY .. | .rrIndIX ..
  | .rrIndIY .. | .slaIndIX .. | .slaIndIY .. | .sraIndIX .. | .sraIndIY .. | .srlIndIX .. | .srlIndIY ..
  | .bitIndIX .. | .bitIndIY .. | .setIndIX .. | .setIndIY .. | .resIndIX .. | .resIndIY .. => .xyCbDOp

/-! ## The host's numbering of an opcode-table row -/

/-- The `k` bytes of `w`, first byte most significant: R107's numbering of spec/opcode_table.json. -/
def bytesMsbFirst : (k w : Nat) → List Byte
  | 0, _ => []
  | k + 1, w => bytesMsbFirst k (w / 256) ++ [BitVec.ofNat 8 w]

/-- The `k` bytes of `w`, first byte least significant. -/
def bytesLsbFirst : (k w : Nat) → List Byte
  | 0, _ => []
  | k + 1, w => BitVec.ofNat 8 w :: bytesLsbFirst k (w / 256)

/-- Whether the bytes are exactly one admitted instruction. -/
def isOneInstr (bs : List Byte) : Bool :=
  match decode bs with
  | .ok _ [] => true
  | _ => false

/-- The instruction bytes of a table word of `nbits` bits, followed by zeros up to the longest instruction (4 bytes). The
table numbers its bits with the first byte most significant (R107); a word that is no whole instruction read so is
read with its first byte least significant (notes/assumptions/17.md). -/
def tableBytes (nbits w : Nat) : List Byte :=
  let bs := bytesMsbFirst (nbits / 8) w
  let bs' := bytesLsbFirst (nbits / 8) w
  (if isOneInstr bs' && !isOneInstr bs then bs' else bs) ++ List.replicate (4 - nbits / 8) 0

/-- The instruction the decoder reads from a row's bits, as the host numbers them (none where it refuses). -/
def decodeTableWord (nbits w : Nat) : Option Instr :=
  match decode (tableBytes nbits w) with
  | .ok i _ => some i
  | _ => none

end Sys2Proof
end

