-- ==== Sys2Proof/Machine/Flags.lean ====
section
/-! DEFINITION. The flag byte and the flag and arithmetic functions of 10_state.md (R27 to R43), and the flag results the
instruction rules give in their own words. All are pure functions of operand values and incoming flags (R28). Sums and
differences are computed exactly in `Nat` or `Int` and then narrowed, as the rules write them. -/

namespace Sys2Proof.Machine

/-! ## The flag byte -/

/-- The eight flags (R27), in bit order 7 to 0. -/
structure Flags where
  s : Bool
  z : Bool
  y : Bool
  h : Bool
  x : Bool
  pv : Bool
  n : Bool
  c : Bool
deriving DecidableEq, Repr

/-- The flags a byte `F` holds (R27). -/
def Flags.ofByte (v : Byte) : Flags :=
  ⟨v.getLsbD 7, v.getLsbD 6, v.getLsbD 5, v.getLsbD 4, v.getLsbD 3, v.getLsbD 2, v.getLsbD 1, v.getLsbD 0⟩

/-- The byte `F` that holds the flags: `S` bit 7, `Z` 6, `Y` 5, `H` 4, `X` 3, `PV` 2, `N` 1, `C` 0 (R27, D2). -/
def Flags.toByte (f : Flags) : Byte :=
  BitVec.ofBool f.s ++ BitVec.ofBool f.z ++ BitVec.ofBool f.y ++ BitVec.ofBool f.h
    ++ BitVec.ofBool f.x ++ BitVec.ofBool f.pv ++ BitVec.ofBool f.n ++ BitVec.ofBool f.c

/-- `parity(v)`: true when `v` has an even number of 1 bits (R30). -/
def parity (v : Byte) : Bool :=
  !(v.getLsbD 0 ^^ v.getLsbD 1 ^^ v.getLsbD 2 ^^ v.getLsbD 3
    ^^ v.getLsbD 4 ^^ v.getLsbD 5 ^^ v.getLsbD 6 ^^ v.getLsbD 7)

/-- `S Z Y X = szxy(v)` written into `f` (R31). -/
def Flags.withSzxy (f : Flags) (v : Byte) : Flags :=
  { f with s := v.getLsbD 7, z := v == 0, y := v.getLsbD 5, x := v.getLsbD 3 }

/-- `Y = v[5]`, `X = v[3]` written into `f`: the two undocumented bits alone (R28, D3). -/
def Flags.withYX (f : Flags) (v : Byte) : Flags :=
  { f with y := v.getLsbD 5, x := v.getLsbD 3 }

/-! ## 8-bit arithmetic and logic -/

/-- `ADD8(a, b, c)` (R32). -/
def add8 (a b : Byte) (c : Bool) : Byte × Flags :=
  let sum := a.toNat + b.toNat + c.toNat
  let r : Byte := BitVec.ofNat 8 sum
  (r, { s := r.getLsbD 7
        z := r == 0
        y := r.getLsbD 5
        h := decide (a.toNat % 16 + b.toNat % 16 + c.toNat > 0x0F)
        x := r.getLsbD 3
        pv := a.getLsbD 7 == b.getLsbD 7 && r.getLsbD 7 != a.getLsbD 7
        n := false
        c := decide (sum > 255) })

/-- `SUB8(a, b, c)` (R33; `H` is the borrow from bit 4, D4). -/
def sub8 (a b : Byte) (c : Bool) : Byte × Flags :=
  let diff : Int := (a.toNat : Int) - b.toNat - c.toNat
  let r : Byte := BitVec.ofInt 8 diff
  (r, { s := r.getLsbD 7
        z := r == 0
        y := r.getLsbD 5
        h := decide (((a.toNat % 16 : Nat) : Int) - (b.toNat % 16 : Nat) - c.toNat < 0)
        x := r.getLsbD 3
        pv := a.getLsbD 7 != b.getLsbD 7 && r.getLsbD 7 != a.getLsbD 7
        n := true
        c := decide (diff < 0) })

/-- The flags of `LOGIC8` for a result `r`; `h` is 1 for AND and 0 for OR and XOR (R34). -/
def logicFlags (h : Bool) (r : Byte) : Flags :=
  { s := r.getLsbD 7, z := r == 0, y := r.getLsbD 5, h := h, x := r.getLsbD 3, pv := parity r, n := false, c := false }

/-- `LOGIC8(AND, a, b)` (R34). -/
def and8 (a b : Byte) : Byte × Flags := (a &&& b, logicFlags true (a &&& b))

/-- `LOGIC8(OR, a, b)` (R34). -/
def or8 (a b : Byte) : Byte × Flags := (a ||| b, logicFlags false (a ||| b))

/-- `LOGIC8(XOR, a, b)` (R34). -/
def xor8 (a b : Byte) : Byte × Flags := (a ^^^ b, logicFlags false (a ^^^ b))

/-- `INC8(v)`: "flags as `ADD8(v, 1, 0)` except that `C` is unchanged" (R35). -/
def inc8 (f : Flags) (v : Byte) : Byte × Flags :=
  let r := add8 v 1 false
  (r.1, { r.2 with c := f.c })

/-- `DEC8(v)`: "flags as `SUB8(v, 1, 0)` except that `C` is unchanged" (R36). -/
def dec8 (f : Flags) (v : Byte) : Byte × Flags :=
  let r := sub8 v 1 false
  (r.1, { r.2 with c := f.c })

/-! ## 16-bit arithmetic -/

/-- `ADD16(a, b)`: writes `H N C Y X`, leaves `S Z PV` (R37; `Y X` are bits 13 and 11, D3). -/
def add16 (f : Flags) (a b : Word) : Word × Flags :=
  let sum := a.toNat + b.toNat
  let r : Word := BitVec.ofNat 16 sum
  (r, { f with
        y := r.getLsbD 13
        h := decide (a.toNat % 4096 + b.toNat % 4096 > 0x0FFF)
        x := r.getLsbD 11
        n := false
        c := decide (sum > 0xFFFF) })

/-- `ADC16(a, b, c)` (R38). -/
def adc16 (a b : Word) (c : Bool) : Word × Flags :=
  let sum := a.toNat + b.toNat + c.toNat
  let r : Word := BitVec.ofNat 16 sum
  (r, { s := r.getLsbD 15
        z := r == 0
        y := r.getLsbD 13
        h := decide (a.toNat % 4096 + b.toNat % 4096 + c.toNat > 0x0FFF)
        x := r.getLsbD 11
        pv := a.getLsbD 15 == b.getLsbD 15 && r.getLsbD 15 != a.getLsbD 15
        n := false
        c := decide (sum > 0xFFFF) })

/-- `SBC16(a, b, c)` (R39). -/
def sbc16 (a b : Word) (c : Bool) : Word × Flags :=
  let diff : Int := (a.toNat : Int) - b.toNat - c.toNat
  let r : Word := BitVec.ofInt 16 diff
  (r, { s := r.getLsbD 15
        z := r == 0
        y := r.getLsbD 13
        h := decide (((a.toNat % 4096 : Nat) : Int) - (b.toNat % 4096 : Nat) - c.toNat < 0)
        x := r.getLsbD 11
        pv := a.getLsbD 15 != b.getLsbD 15 && r.getLsbD 15 != a.getLsbD 15
        n := true
        c := decide (diff < 0) })

/-! ## Rotates and shifts (R40): the result and the bit shifted out -/

/-- `RLC(v)`. -/
def rlc (v : Byte) : Byte × Bool := (v.extractLsb' 0 7 ++ v.extractLsb' 7 1, v.getLsbD 7)

/-- `RRC(v)`. -/
def rrc (v : Byte) : Byte × Bool := (v.extractLsb' 0 1 ++ v.extractLsb' 1 7, v.getLsbD 0)

/-- `RL(v, cin)`. -/
def rl (v : Byte) (cin : Bool) : Byte × Bool := (v.extractLsb' 0 7 ++ BitVec.ofBool cin, v.getLsbD 7)

/-- `RR(v, cin)`. -/
def rr (v : Byte) (cin : Bool) : Byte × Bool := (BitVec.ofBool cin ++ v.extractLsb' 1 7, v.getLsbD 0)

/-- `SLA(v)`: "bit 0 becomes 0". -/
def sla (v : Byte) : Byte × Bool := (v <<< 1, v.getLsbD 7)

/-- `SRA(v)`: "bit 7 kept". -/
def sra (v : Byte) : Byte × Bool := ((v >>> 1) ||| (v &&& 0x80), v.getLsbD 0)

/-- `SRL(v)`: "bit 7 becomes 0". -/
def srl (v : Byte) : Byte × Bool := (v >>> 1, v.getLsbD 0)

/-- `SHIFTF(r, cout)`: the flags of a `CB`-page rotate or shift (R41). -/
def shiftFlags (res : Byte × Bool) : Flags := { logicFlags false res.1 with c := res.2 }

/-- `ACCROTF(r, cout)`: the flags of `RLCA RLA RRCA RRA`; `S Z PV` unchanged (R41). -/
def accRotFlags (f : Flags) (res : Byte × Bool) : Flags :=
  { f.withYX res.1 with h := false, n := false, c := res.2 }

/-! ## Conditions, decimal adjust, and the flag clauses of single rules -/

/-- `cond(cc)` (R42). -/
def Flags.cond (f : Flags) : Cond → Bool
  | .nz => !f.z
  | .z => f.z
  | .nc => !f.c
  | .c => f.c
  | .po => !f.pv
  | .pe => f.pv
  | .p => !f.s
  | .m => f.s

/-- `DAA(a, F)` (R43, D27). -/
def daa (f : Flags) (a : Byte) : Byte × Flags :=
  let low : Byte := if f.h || decide (a.toNat % 16 > 9) then 0x06 else 0
  let cout : Bool := f.c || decide (a.toNat > 0x99)
  let corr : Byte := low ||| (if cout then 0x60 else 0)
  let r : Byte := if f.n then a - corr else a + corr
  (r, { f.withSzxy r with h := (a ^^^ r).getLsbD 4, pv := parity r, c := cout })

/-- `CPL`: `H = N = 1`, `Y X` from the new `A`, the rest unchanged (R341). -/
def cplFlags (f : Flags) (a : Byte) : Flags := { f.withYX a with h := true, n := true }

/-- `CCF`: `H` takes the old `C`, `C` is inverted, `Y X` from `A` (R343, D3). -/
def ccfFlags (f : Flags) (a : Byte) : Flags := { f.withYX a with h := f.c, n := false, c := !f.c }

/-- `SCF`: `C = 1`, `Y X` from `A` (R344, D3). -/
def scfFlags (f : Flags) (a : Byte) : Flags := { f.withYX a with h := false, n := false, c := true }

/-- `LD A,I` and `LD A,R`: `PV = IFF2` (R217, R218, D29). -/
def irFlags (f : Flags) (v : Byte) (iff2 : Bool) : Flags :=
  { f.withSzxy v with h := false, pv := iff2, n := false }

/-- `IN r,(C)` (R471), `RLD` and `RRD` (R412, R413): `S Z Y X` and parity from the byte, `H = N = 0`, `C` unchanged. -/
def inFlags (f : Flags) (v : Byte) : Flags :=
  { f.withSzxy v with h := false, pv := parity v, n := false }

/-- `BIT`: of the masked byte `m`, as the result of a logical operation; `H = 1`, `C` unchanged (R420, D3). -/
def bitFlags (f : Flags) (m : Byte) : Flags :=
  { f.withSzxy m with h := true, pv := parity m, n := false }

/-- `LDI LDD LDIR LDDR`: `X = k[3]`, `Y = k[1]` of `k = A + t`; `PV` says whether the decremented `BC` is not 0 (R266, D3). -/
def ldBlockFlags (f : Flags) (a t : Byte) (bc : Word) : Flags :=
  let k := a + t
  { f with y := k.getLsbD 1, h := false, x := k.getLsbD 3, pv := bc != 0, n := false }

/-- `CPI CPD CPIR CPDR`: `S Z Y H X N` of `SUB8(A, t, 0)`; `PV` as for `LDI`; `C` unchanged (R270, D3). -/
def cpBlockFlags (f : Flags) (a t : Byte) (bc : Word) : Flags :=
  { (sub8 a t false).2 with pv := bc != 0, c := f.c }

/-- The eight block I/O instructions: `S Z Y X` from the decremented `B`, `N = 1`, `C` unchanged; `h` and `pv` "take any
value" and are given by the caller as free values (R472, D20, U3; log entry 9). -/
def ioBlockFlags (f : Flags) (b1 : Byte) (h pv : Bool) : Flags :=
  { f.withSzxy b1 with h := h, pv := pv, n := true }

/-- `1 << b` (R420). -/
def bitMask (b : BitVec 3) : Byte := 1#8 <<< b.toNat

/-- The byte `v & (1 << b)` that `BIT` tests (R420). -/
def bitMasked (b : BitVec 3) (v : Byte) : Byte := v &&& bitMask b

/-- `v | (1 << b)`: `SET` (R424). -/
def bitSet (b : BitVec 3) (v : Byte) : Byte := v ||| bitMask b

/-- `v & ~(1 << b)`: `RES` (R428). -/
def bitReset (b : BitVec 3) (v : Byte) : Byte := v &&& ~~~(bitMask b)

/-- The refresh counter after one executed instruction: `{R[7], (R[6:0] + 1) mod 128}` (R46, D5). -/
def bumpR (r : Byte) : Byte := r.extractLsb' 7 1 ++ (r.extractLsb' 0 7 + 1)

end Sys2Proof.Machine
end

