-- ==== Sys2Proof/Machine/State.lean ====
section
/-! DEFINITION. The state of the machine: R54's "State inventory for a model, complete", and two fields of the model's own
(`source`, `free`), each named in the assumption log. -/

namespace Sys2Proof.Machine

/-! ## Memory: the bytes of the RAM and ROM devices -/

/-- The contents of the RAM and ROM devices, keyed by GLOBAL offset (R62): strictly rising, and no entry equal to what an
unlisted offset reads as, so that equal memories are equal data. -/
abbrev Memory := List Host.Cell

/-- What an unlisted byte reads as: "one RAM of 65536 bytes, all zero" (93_implementation_defined.md, Part 3; log entry 1). -/
def Memory.unlisted : Byte := 0

/-- Whether every offset of the list is above `lo` and the offsets rise strictly. -/
def Memory.risesFrom : Nat → Memory → Bool
  | _, [] => true
  | lo, (a, _) :: rest => decide (lo ≤ a) && Memory.risesFrom (a + 1) rest

/-- The canonical form: offsets strictly rising, no entry equal to `Memory.unlisted`. -/
def Memory.wf (m : Memory) : Bool :=
  Memory.risesFrom 0 m && m.all fun c => c.2 != Memory.unlisted

/-! ## Registers -/

/-- One bank of the eight byte registers `A F B C D E H L` (R20, R22). The pairs `AF BC DE HL` are no storage of their own:
"the word view of a register pair and its byte halves are always the same storage" (R21). -/
structure Regs where
  a : Byte
  f : Byte
  b : Byte
  c : Byte
  d : Byte
  e : Byte
  h : Byte
  l : Byte
deriving DecidableEq, Repr

/-- The interrupt mode `IM`, "a value in {0, 1, 2}" (R48). -/
inductive IntMode where
  | im0
  | im1
  | im2
deriving DecidableEq, Repr

/-- Where the instruction being executed comes from: memory, or the payload of a mode-0 interrupt. It decides `npc` (R10,
R518). A field of the model's own (log entry 7): between steps it is always `memory`. -/
inductive Source where
  | memory
  | supplied
deriving DecidableEq, Repr

/-- The interrupt entries that push `pc` and jump: R515, R517, R519 (`low` is the payload's first byte). Mode 0 executes an
instruction instead (R518). -/
inductive Interrupt where
  | nmi
  | mode1
  | mode2 (low : Byte)
deriving DecidableEq, Repr

/-- The machine's state (R54). `mem`, `memdevs` and `iodevs` are "the content of every memory device, and the internal state
of every I/O and custom memory device". -/
structure State where
  /-- the main bank (R20, R27) -/
  main : Regs
  /-- the alternate bank `A' F' B' C' D' E' H' L'` (R22) -/
  alt : Regs
  /-- R23 -/
  ix : Word
  /-- R23 -/
  iy : Word
  /-- R24 -/
  sp : Word
  /-- R25 -/
  pc : Word
  /-- the interrupt vector base `I` (R45) -/
  i : Byte
  /-- the refresh counter `R` (R46) -/
  r : Byte
  /-- R47 -/
  iff1 : Bool
  /-- R47 -/
  iff2 : Bool
  /-- R48 -/
  im : IntMode
  /-- R49 -/
  halted : Bool
  /-- the model's own: where the executing instruction comes from (log entry 7) -/
  source : Source
  /-- the model's own: how many free values have been used (log entry 8) -/
  free : Nat
  /-- the bytes of the RAM and ROM devices (R61), by global offset -/
  mem : Memory
  /-- `MEMDEVS` (R6, R60), in registration order -/
  memdevs : List MemDev
  /-- `IODEVS` (R6, R84), in registration order -/
  iodevs : List IODev
deriving DecidableEq, Repr

/-- The faults of R503, by the names the document gives them. A fault ends the run and has no successor state (R501, R504;
log entry 10), so each is SAFE: nothing can be proved about execution after it. -/
inductive Fault where
  /-- A byte access at an address no device answers: any fetch, read, write, push, pop or vector read (R65). Safe. -/
  | unmappedAddress (addr : Nat)
  /-- An instruction's or `load`'s write to a read-only device; the byte is unchanged (R67). Safe. -/
  | readOnlyWrite (addr : Nat)
  /-- A port access to a port no device claims: every `IN`, `OUT` and block I/O instruction (R86, R87). Safe. -/
  | unmappedPort (port : Port)
  /-- The decoder found an empty table entry, or a mode-0 payload is not exactly one instruction (R120, R505, R518). Safe. -/
  | invalidInstruction (bytes : List Byte)
  /-- An error text a custom memory device or an I/O device returns from an access (R89). Safe. -/
  | executionError (detail : String)
  /-- Raised only by the host operation `load`, for image bytes beyond `TOTAL`; never by a step (R503 (6), R566). Safe. -/
  | outOfBounds (offset : Nat)
deriving DecidableEq, Repr

/-- The refusals. -/
inductive Refusal where
  /-- An instruction whose meaning is not written yet; raised by no arm of this model. Safe. -/
  | notModelled (mnemonic : String)
  /-- `step` on a halted machine: "A halted CPU refuses further `step` calls" (R49, R506). Raised by `step` only. Safe. -/
  | halted
deriving DecidableEq, Repr

/-- A bank of zeros (R53). -/
def Regs.zero : Regs := ⟨0, 0, 0, 0, 0, 0, 0, 0⟩

/-- The machine right after reset (R53, R560) in the default configuration: one 64 KiB RAM with nothing listed, no I/O device
(R6, D22; log entries 2 and 3). `source` and `free` are the model's own fields (log entries 7 and 8). -/
def State.reset : State where
  main := Regs.zero
  alt := Regs.zero
  ix := 0
  iy := 0
  sp := 0
  pc := 0
  i := 0
  r := 0
  iff1 := false
  iff2 := false
  im := .im0
  halted := false
  source := .memory
  free := 0
  mem := []
  memdevs := [⟨65536, .ram, 0⟩]
  iodevs := []

end Sys2Proof.Machine
end

