-- ==== Sys2Proof/Machine/Operands.lean ====
section
/-! DEFINITION. The operand forms of 30_encoding.md (R110 to R116): reading and writing a register, a pair or a flag set by
its name, and the effective address of an indexed operand. Every register has one home in `State`; a pair is computed from
its halves (R21). -/

namespace Sys2Proof.Machine

/-! ## Pairs of one bank -/

/-- `x[BC] = {x[B], x[C]}` (R21). -/
def Regs.bc (g : Regs) : Word := wordOf g.c g.b

/-- `x[DE]` (R21). -/
def Regs.de (g : Regs) : Word := wordOf g.e g.d

/-- `x[HL]` (R21). -/
def Regs.hl (g : Regs) : Word := wordOf g.l g.h

/-- `x[AF]`, `A` the high half (R21). -/
def Regs.af (g : Regs) : Word := wordOf g.f g.a

/-- `x[BC] <- v` (R21). -/
def Regs.setBC (g : Regs) (v : Word) : Regs := { g with b := hiByte v, c := loByte v }

/-- `x[DE] <- v` (R21). -/
def Regs.setDE (g : Regs) (v : Word) : Regs := { g with d := hiByte v, e := loByte v }

/-- `x[HL] <- v` (R21). -/
def Regs.setHL (g : Regs) (v : Word) : Regs := { g with h := hiByte v, l := loByte v }

/-- `x[AF] <- v` (R21). -/
def Regs.setAF (g : Regs) (v : Word) : Regs := { g with a := hiByte v, f := loByte v }

/-- Reading a register by its code's name (R110). -/
def Regs.get (g : Regs) : Reg8 → Byte
  | .b => g.b
  | .c => g.c
  | .d => g.d
  | .e => g.e
  | .h => g.h
  | .l => g.l
  | .a => g.a

/-- Writing a register by its code's name (R110). -/
def Regs.set (g : Regs) (r : Reg8) (v : Byte) : Regs :=
  match r with
  | .b => { g with b := v }
  | .c => { g with c := v }
  | .d => { g with d := v }
  | .e => { g with e := v }
  | .h => { g with h := v }
  | .l => { g with l := v }
  | .a => { g with a := v }

/-! ## Operands of the machine -/

/-- `x[r]` (R9, R110). -/
def State.reg8 (s : State) (r : Reg8) : Byte := s.main.get r

/-- `x[r] <- v` (R9, R110). -/
def State.setReg8 (s : State) (r : Reg8) (v : Byte) : State := { s with main := s.main.set r v }

/-- `x[dd]` or `x[ss]` (R111). -/
def State.pair (s : State) : Pair → Word
  | .bc => s.main.bc
  | .de => s.main.de
  | .hl => s.main.hl
  | .sp => s.sp

/-- `x[dd] <- v` (R111). -/
def State.setPair (s : State) (p : Pair) (v : Word) : State :=
  match p with
  | .bc => { s with main := s.main.setBC v }
  | .de => { s with main := s.main.setDE v }
  | .hl => { s with main := s.main.setHL v }
  | .sp => { s with sp := v }

/-- `x[qq]` (R112). -/
def State.stackPair (s : State) : StackPair → Word
  | .bc => s.main.bc
  | .de => s.main.de
  | .hl => s.main.hl
  | .af => s.main.af

/-- `x[qq] <- v` (R112). -/
def State.setStackPair (s : State) (p : StackPair) (v : Word) : State :=
  match p with
  | .bc => { s with main := s.main.setBC v }
  | .de => { s with main := s.main.setDE v }
  | .hl => { s with main := s.main.setHL v }
  | .af => { s with main := s.main.setAF v }

/-- `x[pp]`, the source of `ADD IX,pp` (R113). -/
def State.ixPair (s : State) : IXPair → Word
  | .bc => s.main.bc
  | .de => s.main.de
  | .ix => s.ix
  | .sp => s.sp

/-- `x[rr]`, the source of `ADD IY,rr` (R113). -/
def State.iyPair (s : State) : IYPair → Word
  | .bc => s.main.bc
  | .de => s.main.de
  | .iy => s.iy
  | .sp => s.sp

/-- `x[IX]` or `x[IY]` (R23). -/
def State.index (s : State) : Index → Word
  | .ix => s.ix
  | .iy => s.iy

/-- `x[IX] <- v` or `x[IY] <- v` (R23). -/
def State.setIndex (s : State) (x : Index) (v : Word) : State :=
  match x with
  | .ix => { s with ix := v }
  | .iy => { s with iy := v }

/-- The effective address `ea = (x[IX] + sext_16(d)) mod 65536`, or of `IY` (R116). -/
def State.ea (s : State) (x : Index) (d : Byte) : Word := s.index x + sext16 d

/-- The accumulator `A` (R20). -/
def State.a (s : State) : Byte := s.main.a

/-- `x[HL]`, the address of the `(HL)` forms (R21). -/
def State.hl (s : State) : Word := s.main.hl

/-- The flags of `F` (R27). -/
def State.flags (s : State) : Flags := Flags.ofByte s.main.f

/-- `F <- f`, all eight bits (R12, R27). -/
def State.setFlags (s : State) (f : Flags) : State := { s with main := { s.main with f := f.toByte } }

end Sys2Proof.Machine
end

