-- ==== Sys2Proof/Machine/Ops.lean ====
section
/-! DEFINITION. The named operations the meanings are made of: memory and its devices (R60 to R71), the ports (R84 to R89),
the stack (R230), the end of an instruction (R10, R46), and TAKING AN INTERRUPT with the return from one (R515 to R521),
which is what this machine has of exceptions (R502). -/

namespace Sys2Proof.Machine

/-- What a meaning answers. -/
abbrev Res := Host.Outcome State Fault Refusal

/-- Go on with the value of an access, or end the step with its fault: "`raise F(info)` ends the step with fault F" (R11). -/
def andThen {α : Type} (e : Except Fault α) (k : α → Res) : Res :=
  match e with
  | .ok a => k a
  | .error f => .fault f

/-! ## The bytes of RAM and ROM -/

/-- The byte at a global offset. -/
def Memory.read : Memory → Nat → Byte
  | [], _ => Memory.unlisted
  | (a, v) :: rest, k => if k = a then v else Memory.read rest k

/-- Put a byte at a global offset, keeping the offsets rising. -/
def Memory.insert : Memory → Nat → Byte → Memory
  | [], k, w => [(k, w)]
  | (a, v) :: rest, k, w =>
    if k < a then (k, w) :: (a, v) :: rest
    else if k = a then (k, w) :: rest
    else (a, v) :: Memory.insert rest k w

/-- Take the byte at a global offset out of the list. -/
def Memory.erase : Memory → Nat → Memory
  | [], _ => []
  | (a, v) :: rest, k => if k = a then rest else (a, v) :: Memory.erase rest k

/-- Store a byte at a global offset, keeping the canonical form. -/
def Memory.write (m : Memory) (k : Nat) (v : Byte) : Memory :=
  if v = Memory.unlisted then Memory.erase m k else Memory.insert m k v

/-! ## The device array -/

/-- Where a global offset lands: the device's place in `MEMDEVS`, the local offset, and the device (R62, R64). -/
structure Located where
  index : Nat
  offset : Nat
  dev : MemDev
deriving DecidableEq, Repr

/-- "Address resolution is a linear scan translating a global address into (device index, local offset)" (R64). -/
def resolve : List MemDev → Nat → Option Located
  | [], _ => none
  | d :: ds, a =>
    if a < d.size then some ⟨0, a, d⟩
    else (resolve ds (a - d.size)).map fun l => { l with index := l.index + 1 }

/-- `TOTAL`: "total addressable size = sum of device sizes" (R62). -/
def totalSize (ds : List MemDev) : Nat := (ds.map MemDev.size).sum

/-- Give the custom device at a place of `MEMDEVS` a new internal state. -/
def State.setMemInternal (s : State) (k n : Nat) : State :=
  { s with memdevs := s.memdevs.modify k fun d => { d with internal := n } }

/-- `MemRead(a, 1)` on a global offset (R66). RAM and ROM answer from the machine's memory. -/
def readAt (s : State) (a : Nat) : Except Fault (Byte × State) :=
  match resolve s.memdevs a with
  | none => .error (.unmappedAddress a)
  | some l =>
    match l.dev.kind with
    | .ram => .ok (s.mem.read a, s)
    | .rom => .ok (s.mem.read a, s)
    | .custom _ id =>
      match Config.memDevRead id l.dev.internal l.offset with
      | .ok (v, n) => .ok (v, s.setMemInternal l.index n)
      | .error e => .error (.executionError e)

/-- `MemWrite(a, 1, v)` on a global offset: resolution, then the read-only bit, then the device's own answer (R67, R507). -/
def writeAt (s : State) (a : Nat) (v : Byte) : Except Fault State :=
  match resolve s.memdevs a with
  | none => .error (.unmappedAddress a)
  | some l =>
    if l.dev.readonly then .error (.readOnlyWrite a)
    else
      match l.dev.kind with
      | .ram => .ok { s with mem := s.mem.write a v }
      | .rom => .error (.readOnlyWrite a)
      | .custom _ id =>
        match Config.memDevWrite id l.dev.internal l.offset v with
        | .ok n => .ok (s.setMemInternal l.index n)
        | .error e => .error (.executionError e)

/-- `MemRead(a, 1)` (R66). -/
def readByte (s : State) (a : Word) : Except Fault (Byte × State) := readAt s a.toNat

/-- `MemWrite(a, 1, v)` (R67). -/
def writeByte (s : State) (a : Word) (v : Byte) : Except Fault State := writeAt s a.toNat v

/-- `MemRead(a, 2)`: "The low byte is read first"; the high byte's address wraps (R70, D15). -/
def readWord (s : State) (a : Word) : Except Fault (Word × State) :=
  match readByte s a with
  | .error f => .error f
  | .ok (lo, s1) =>
    match readByte s1 (a + 1#16) with
    | .error f => .error f
    | .ok (hi, s2) => .ok (wordOf lo hi, s2)

/-- `MemWrite(a, 2, v)`: low byte first (R71, D15). -/
def writeWord (s : State) (a v : Word) : Except Fault State :=
  match writeByte s a (loByte v) with
  | .error f => .error f
  | .ok s1 => writeByte s1 (a + 1#16) (hiByte v)

/-! ## Ports -/

/-- `owner(p)`: the device that claims the port, and its place in `IODEVS` (R84). -/
def owner : List IODev → Port → Option (Nat × IODev)
  | [], _ => none
  | d :: ds, p =>
    if d.ports.contains p then some (0, d) else (owner ds p).map fun l => (l.1 + 1, l.2)

/-- Put a device back in its place of `IODEVS`. -/
def State.setIODev (s : State) (k : Nat) (d : IODev) : State := { s with iodevs := s.iodevs.set k d }

/-- `PortRead(p)` (R86). -/
def portRead (s : State) (p : Port) : Except Fault (Byte × State) :=
  match owner s.iodevs p with
  | none => .error (.unmappedPort p)
  | some (k, d) =>
    match d.portIn p with
    | .ok (v, d') => .ok (v, s.setIODev k d')
    | .error e => .error (.executionError e)

/-- `PortWrite(p, v)` (R87). -/
def portWrite (s : State) (p : Port) (v : Byte) : Except Fault State :=
  match owner s.iodevs p with
  | none => .error (.unmappedPort p)
  | some (k, d) =>
    match d.portOut p v with
    | .ok d' => .ok (s.setIODev k d')
    | .error e => .error (.executionError e)

/-! ## The stack -/

/-- `Push16(v)`: `SP` is lowered by two first, then the low byte is written at `SP` and the high byte above it (R230, D28). -/
def push16 (s : State) (v : Word) : Except Fault State :=
  let s1 := { s with sp := s.sp - 2#16 }
  writeWord s1 s1.sp v

/-- `Pop16()`: the word at `SP`, low byte first; then `SP` is raised by two (R230). -/
def pop16 (s : State) : Except Fault (Word × State) :=
  match readWord s s.sp with
  | .error f => .error f
  | .ok (v, s1) => .ok (v, { s1 with sp := s1.sp + 2#16 })

/-! ## The end of an instruction -/

/-- `npc`: `PC0 + len` for a fetched instruction, `PC0` for one supplied by a mode-0 interrupt (R10, R518). -/
def State.npc (s : State) (len : Nat) : Word :=
  match s.source with
  | .memory => s.pc + BitVec.ofNat 16 len
  | .supplied => s.pc

/-- The end of every executed instruction: `pc <- target`, then `R` is incremented (R46, R500); the next instruction comes
from memory again. -/
def State.retireTo (s : State) (target : Word) : State :=
  { s with pc := target, r := bumpR s.r, source := .memory }

/-- The end of an instruction that writes no `pc` of its own: "Unless a rule writes `pc` explicitly, every instruction ends
with `pc <- npc`" (R10). -/
def State.retire (s : State) (len : Nat) : State := s.retireTo (s.npc len)

/-- A taken relative jump: `pc <- (npc + sext_16(e)) mod 65536` (R118). -/
def State.branchTarget (s : State) (len : Nat) (e : Byte) : Word := s.npc len + sext16 e

/-! ## Free values -/

/-- The two free flag bits a block I/O instruction takes for `H` and `PV`, and the counter moved past them (R472, U3; log
entries 8 and 9). -/
def State.takeFree2 (s : State) : Bool × Bool × State :=
  (Config.freeBit s.free, Config.freeBit (s.free + 1), { s with free := s.free + 2 })

/-! ## Taking an interrupt, and returning from one -/

/-- The flip-flops on entry: NMI keeps `IFF1` in `IFF2` and clears `IFF1` (R515); a maskable entry clears both (R516, D9). -/
def State.maskFor (s : State) : Interrupt → State
  | .nmi => { s with iff2 := s.iff1, iff1 := false }
  | .mode1 => { s with iff1 := false, iff2 := false }
  | .mode2 _ => { s with iff1 := false, iff2 := false }

/-- Where an interrupt goes: 0x0066 for NMI (R515), 0x0038 in mode 1 (R517), the word at `{I, low}` in mode 2 (R519, D7, D8). -/
def interruptTarget (s : State) : Interrupt → Except Fault (Word × State)
  | .nmi => .ok (0x0066, s)
  | .mode1 => .ok (0x0038, s)
  | .mode2 low => readWord s (wordOf low s.i)

/-- TAKE AN INTERRUPT: the flip-flops change, `pc` is pushed, `pc` goes to the handler. No other register changes, `R`
included (R515, R517, R519, R520). -/
def takeInterrupt (k : Interrupt) (s : State) : Except Fault State :=
  match push16 (s.maskFor k) s.pc with
  | .error f => .error f
  | .ok s1 =>
    match interruptTarget s1 k with
    | .error f => .error f
    | .ok (target, s2) => .ok { s2 with pc := target }

/-- RETURN: `pc <- Pop16()`, the end of `RET`, `RETI` and `RETN` (R453, R455, R456). -/
def popPc (s : State) : Except Fault State :=
  match pop16 s with
  | .error f => .error f
  | .ok (target, s1) => .ok (s1.retireTo target)

/-- `x[IFF1] <- x[IFF2]`: what the return from NMI restores (R456, R521). -/
def State.restoreIff1 (s : State) : State := { s with iff1 := s.iff2 }

/-! ## Shapes shared by many meanings -/

/-- One byte is read at `a`; `k` says what becomes of it; the instruction ends. -/
def loadByte (s : State) (a : Word) (len : Nat) (k : Byte → State → State) : Res :=
  andThen (readByte s a) fun r => .next ((k r.1 r.2).retire len)

/-- The byte `v` is written at `a`; the instruction ends. -/
def storeByte (s : State) (a : Word) (len : Nat) (v : Byte) : Res :=
  andThen (writeByte s a v) fun s1 => .next (s1.retire len)

/-- One word is read at `a`; `k` says what becomes of it; the instruction ends. -/
def loadWord (s : State) (a : Word) (len : Nat) (k : Word → State → State) : Res :=
  andThen (readWord s a) fun r => .next ((k r.1 r.2).retire len)

/-- The word `v` is written at `a`; the instruction ends. -/
def storeWord (s : State) (a : Word) (len : Nat) (v : Word) : Res :=
  andThen (writeWord s a v) fun s1 => .next (s1.retire len)

/-- "one read then one write of the same address" (R73, R321): the byte `v` at `a` becomes `f v`; the instruction ends. -/
def modifyByte (s : State) (a : Word) (len : Nat) (f : Byte → Byte) : Res :=
  andThen (readByte s a) fun r =>
    andThen (writeByte r.2 a (f r.1)) fun s1 => .next (s1.retire len)

/-- As `modifyByte`, where the result also gives the flags. -/
def modifyByteFlags (s : State) (a : Word) (len : Nat) (f : Byte → Byte × Flags) : Res :=
  andThen (readByte s a) fun r =>
    andThen (writeByte r.2 a (f r.1).1) fun s1 => .next ((s1.setFlags (f r.1).2).retire len)

/-- `Push16(v)`; the instruction ends (R230). -/
def pushWord (s : State) (len : Nat) (v : Word) : Res :=
  andThen (push16 s v) fun s1 => .next (s1.retire len)

/-- `Pop16()`; `k` says what becomes of the word; the instruction ends (R230). -/
def popWord (s : State) (len : Nat) (k : Word → State → State) : Res :=
  andThen (pop16 s) fun r => .next ((k r.1 r.2).retire len)

/-- `EX (SP),..`: the word at `SP` is read, both bytes before either is written; `v` is written there; `k` takes the word
read (R263). -/
def exchangeStackTop (s : State) (len : Nat) (v : Word) (k : Word → State → State) : Res :=
  andThen (readWord s s.sp) fun r =>
    andThen (writeWord r.2 s.sp v) fun s1 => .next ((k r.1 s1).retire len)

/-- `Push16(npc); pc <- target` (R451, R457). -/
def callTo (s : State) (len : Nat) (target : Word) : Res :=
  andThen (push16 s (s.npc len)) fun s1 => .next (s1.retireTo target)

end Sys2Proof.Machine
end

