-- ==== Sys2Proof/Machine/Alu16.lean ====
section
/-! DEFINITION. The meanings of 45_alu16.md: 16-bit arithmetic (R360 to R375). -/

namespace Sys2Proof.Machine

/-- `(r, fl)` written to `HL` and `F`. -/
def State.withHL (s : State) (res : Word × Flags) : State := (s.setPair .hl res.1).setFlags res.2

/-- `(r, fl)` written to `IX` or `IY` and `F`. -/
def State.withIndex (s : State) (x : Index) (res : Word × Flags) : State := (s.setIndex x res.1).setFlags res.2

/-- `ADD HL,ss`: `S Z PV` unchanged (R360). -/
def execAddHLPair (ss : Pair) (s : State) : Res := .next ((s.withHL (add16 s.flags s.hl (s.pair ss))).retire 1)

/-- `ADC HL,ss` (R361). -/
def execAdcHLPair (ss : Pair) (s : State) : Res := .next ((s.withHL (adc16 s.hl (s.pair ss) s.flags.c)).retire 2)

/-- `SBC HL,ss` (R362). -/
def execSbcHLPair (ss : Pair) (s : State) : Res := .next ((s.withHL (sbc16 s.hl (s.pair ss) s.flags.c)).retire 2)

/-- `ADD IX,pp` (R363). -/
def execAddIXPair (pp : IXPair) (s : State) : Res :=
  .next ((s.withIndex .ix (add16 s.flags s.ix (s.ixPair pp))).retire 2)

/-- `ADD IY,rr` (R364). -/
def execAddIYPair (rr : IYPair) (s : State) : Res :=
  .next ((s.withIndex .iy (add16 s.flags s.iy (s.iyPair rr))).retire 2)

/-- `INC ss`: no flag changes (R365). -/
def execIncPair (ss : Pair) (s : State) : Res := .next ((s.setPair ss (s.pair ss + 1#16)).retire 1)

/-- `INC IX` (R366). -/
def execIncIX (s : State) : Res := .next ((s.setIndex .ix (s.ix + 1#16)).retire 2)

/-- `INC IY` (R367). -/
def execIncIY (s : State) : Res := .next ((s.setIndex .iy (s.iy + 1#16)).retire 2)

/-- `DEC ss`: no flag changes (R368). -/
def execDecPair (ss : Pair) (s : State) : Res := .next ((s.setPair ss (s.pair ss - 1#16)).retire 1)

/-- `DEC IX` (R369). -/
def execDecIX (s : State) : Res := .next ((s.setIndex .ix (s.ix - 1#16)).retire 2)

/-- `DEC IY` (R370). -/
def execDecIY (s : State) : Res := .next ((s.setIndex .iy (s.iy - 1#16)).retire 2)

end Sys2Proof.Machine
end

