-- ==== Sys2Proof/Machine/Alu8.lean ====
section
/-! DEFINITION. The meanings of 43_alu8.md: 8-bit arithmetic and logic (R280 to R330). -/

namespace Sys2Proof.Machine

/-- `(r, fl)` written to `A` and `F`. -/
def State.withAcc (s : State) (res : Byte × Flags) : State := (s.setReg8 .a res.1).setFlags res.2

/-- `ADD`: `(r, fl) = ADD8(x[A], v, 0); x[A] <- r` (R280). -/
def aluAdd (v : Byte) (s : State) : State := s.withAcc (add8 s.a v false)

/-- `ADC`: with the incoming `F.C` (R285). -/
def aluAdc (v : Byte) (s : State) : State := s.withAcc (add8 s.a v s.flags.c)

/-- `SUB` (R290). -/
def aluSub (v : Byte) (s : State) : State := s.withAcc (sub8 s.a v false)

/-- `SBC`: with the incoming `F.C` (R295). -/
def aluSbc (v : Byte) (s : State) : State := s.withAcc (sub8 s.a v s.flags.c)

/-- `AND` (R300). -/
def aluAnd (v : Byte) (s : State) : State := s.withAcc (and8 s.a v)

/-- `XOR` (R305). -/
def aluXor (v : Byte) (s : State) : State := s.withAcc (xor8 s.a v)

/-- `OR` (R310). -/
def aluOr (v : Byte) (s : State) : State := s.withAcc (or8 s.a v)

/-- `CP`: "`r` is discarded and `A` is unchanged"; the flags are those of `SUB`, `Y` and `X` of the difference (R315, D3). -/
def aluCp (v : Byte) (s : State) : State := s.setFlags (sub8 s.a v false).2

/-- `ADD A,r` (R280). -/
def execAddReg (r : Reg8) (s : State) : Res := .next ((aluAdd (s.reg8 r) s).retire 1)

/-- `ADD A,n` (R281). -/
def execAddImm (n : Byte) (s : State) : Res := .next ((aluAdd n s).retire 2)

/-- `ADD A,(HL)` (R282). -/
def execAddIndHL (s : State) : Res := loadByte s s.hl 1 aluAdd

/-- `ADD A,(IX+d)` (R283). -/
def execAddIndIX (d : Byte) (s : State) : Res := loadByte s (s.ea .ix d) 3 aluAdd

/-- `ADD A,(IY+d)` (R284). -/
def execAddIndIY (d : Byte) (s : State) : Res := loadByte s (s.ea .iy d) 3 aluAdd

/-- `ADC A,r` (R285). -/
def execAdcReg (r : Reg8) (s : State) : Res := .next ((aluAdc (s.reg8 r) s).retire 1)

/-- `ADC A,n` (R286). -/
def execAdcImm (n : Byte) (s : State) : Res := .next ((aluAdc n s).retire 2)

/-- `ADC A,(HL)` (R287). -/
def execAdcIndHL (s : State) : Res := loadByte s s.hl 1 aluAdc

/-- `ADC A,(IX+d)` (R288). -/
def execAdcIndIX (d : Byte) (s : State) : Res := loadByte s (s.ea .ix d) 3 aluAdc

/-- `ADC A,(IY+d)` (R289). -/
def execAdcIndIY (d : Byte) (s : State) : Res := loadByte s (s.ea .iy d) 3 aluAdc

/-- `SUB r` (R290). -/
def execSubReg (r : Reg8) (s : State) : Res := .next ((aluSub (s.reg8 r) s).retire 1)

/-- `SUB n` (R291). -/
def execSubImm (n : Byte) (s : State) : Res := .next ((aluSub n s).retire 2)

/-- `SUB (HL)` (R292). -/
def execSubIndHL (s : State) : Res := loadByte s s.hl 1 aluSub

/-- `SUB (IX+d)` (R293). -/
def execSubIndIX (d : Byte) (s : State) : Res := loadByte s (s.ea .ix d) 3 aluSub

/-- `SUB (IY+d)` (R294). -/
def execSubIndIY (d : Byte) (s : State) : Res := loadByte s (s.ea .iy d) 3 aluSub

/-- `SBC A,r` (R295). -/
def execSbcReg (r : Reg8) (s : State) : Res := .next ((aluSbc (s.reg8 r) s).retire 1)

/-- `SBC A,n` (R296). -/
def execSbcImm (n : Byte) (s : State) : Res := .next ((aluSbc n s).retire 2)

/-- `SBC A,(HL)` (R297). -/
def execSbcIndHL (s : State) : Res := loadByte s s.hl 1 aluSbc

/-- `SBC A,(IX+d)` (R298). -/
def execSbcIndIX (d : Byte) (s : State) : Res := loadByte s (s.ea .ix d) 3 aluSbc

/-- `SBC A,(IY+d)` (R299). -/
def execSbcIndIY (d : Byte) (s : State) : Res := loadByte s (s.ea .iy d) 3 aluSbc

/-- `AND r` (R300). -/
def execAndReg (r : Reg8) (s : State) : Res := .next ((aluAnd (s.reg8 r) s).retire 1)

/-- `AND n` (R301). -/
def execAndImm (n : Byte) (s : State) : Res := .next ((aluAnd n s).retire 2)

/-- `AND (HL)` (R302). -/
def execAndIndHL (s : State) : Res := loadByte s s.hl 1 aluAnd

/-- `AND (IX+d)` (R303). -/
def execAndIndIX (d : Byte) (s : State) : Res := loadByte s (s.ea .ix d) 3 aluAnd

/-- `AND (IY+d)` (R304). -/
def execAndIndIY (d : Byte) (s : State) : Res := loadByte s (s.ea .iy d) 3 aluAnd

/-- `XOR r` (R305). -/
def execXorReg (r : Reg8) (s : State) : Res := .next ((aluXor (s.reg8 r) s).retire 1)

/-- `XOR n` (R306). -/
def execXorImm (n : Byte) (s : State) : Res := .next ((aluXor n s).retire 2)

/-- `XOR (HL)` (R307). -/
def execXorIndHL (s : State) : Res := loadByte s s.hl 1 aluXor

/-- `XOR (IX+d)` (R308). -/
def execXorIndIX (d : Byte) (s : State) : Res := loadByte s (s.ea .ix d) 3 aluXor

/-- `XOR (IY+d)` (R309). -/
def execXorIndIY (d : Byte) (s : State) : Res := loadByte s (s.ea .iy d) 3 aluXor

/-- `OR r` (R310). -/
def execOrReg (r : Reg8) (s : State) : Res := .next ((aluOr (s.reg8 r) s).retire 1)

/-- `OR n` (R311). -/
def execOrImm (n : Byte) (s : State) : Res := .next ((aluOr n s).retire 2)

/-- `OR (HL)` (R312). -/
def execOrIndHL (s : State) : Res := loadByte s s.hl 1 aluOr

/-- `OR (IX+d)` (R313). -/
def execOrIndIX (d : Byte) (s : State) : Res := loadByte s (s.ea .ix d) 3 aluOr

/-- `OR (IY+d)` (R314). -/
def execOrIndIY (d : Byte) (s : State) : Res := loadByte s (s.ea .iy d) 3 aluOr

/-- `CP r` (R315). -/
def execCpReg (r : Reg8) (s : State) : Res := .next ((aluCp (s.reg8 r) s).retire 1)

/-- `CP n` (R316). -/
def execCpImm (n : Byte) (s : State) : Res := .next ((aluCp n s).retire 2)

/-- `CP (HL)` (R317). -/
def execCpIndHL (s : State) : Res := loadByte s s.hl 1 aluCp

/-- `CP (IX+d)` (R318). -/
def execCpIndIX (d : Byte) (s : State) : Res := loadByte s (s.ea .ix d) 3 aluCp

/-- `CP (IY+d)` (R319). -/
def execCpIndIY (d : Byte) (s : State) : Res := loadByte s (s.ea .iy d) 3 aluCp

/-- A register and the flags take the result of an operation on the register. -/
def State.updateReg (s : State) (r : Reg8) (f : Byte → Byte × Flags) : State :=
  (s.setReg8 r (f (s.reg8 r)).1).setFlags (f (s.reg8 r)).2

/-- `INC r`: `C` unchanged (R320). -/
def execIncReg (r : Reg8) (s : State) : Res := .next ((s.updateReg r (inc8 s.flags)).retire 1)

/-- `INC (HL)` (R321). -/
def execIncIndHL (s : State) : Res := modifyByteFlags s s.hl 1 (inc8 s.flags)

/-- `INC (IX+d)` (R322). -/
def execIncIndIX (d : Byte) (s : State) : Res := modifyByteFlags s (s.ea .ix d) 3 (inc8 s.flags)

/-- `INC (IY+d)` (R323). -/
def execIncIndIY (d : Byte) (s : State) : Res := modifyByteFlags s (s.ea .iy d) 3 (inc8 s.flags)

/-- `DEC r`: `C` unchanged (R324). -/
def execDecReg (r : Reg8) (s : State) : Res := .next ((s.updateReg r (dec8 s.flags)).retire 1)

/-- `DEC (HL)` (R325). -/
def execDecIndHL (s : State) : Res := modifyByteFlags s s.hl 1 (dec8 s.flags)

/-- `DEC (IX+d)` (R326). -/
def execDecIndIX (d : Byte) (s : State) : Res := modifyByteFlags s (s.ea .ix d) 3 (dec8 s.flags)

/-- `DEC (IY+d)` (R327). -/
def execDecIndIY (d : Byte) (s : State) : Res := modifyByteFlags s (s.ea .iy d) 3 (dec8 s.flags)

end Sys2Proof.Machine
end

