-- ==== Sys2Proof/Machine/Bit.lean ====
section
/-! DEFINITION. The meanings of 47_bit.md: bit test, set and reset (R420 to R435). -/

namespace Sys2Proof.Machine

/-- The flags after `BIT b` of the byte `v` (R420). -/
def State.testBit (b : BitVec 3) (v : Byte) (s : State) : State := s.setFlags (bitFlags s.flags (bitMasked b v))

/-- `BIT b,r` (R420). -/
def execBitReg (b : BitVec 3) (r : Reg8) (s : State) : Res := .next ((State.testBit b (s.reg8 r) s).retire 2)

/-- `BIT b,(HL)`: "memory is read once and not written" (R421). -/
def execBitIndHL (b : BitVec 3) (s : State) : Res := loadByte s s.hl 2 (State.testBit b)

/-- `BIT b,(IX+d)` (R422). -/
def execBitIndIX (b : BitVec 3) (d : Byte) (s : State) : Res := loadByte s (s.ea .ix d) 4 (State.testBit b)

/-- `BIT b,(IY+d)` (R423). -/
def execBitIndIY (b : BitVec 3) (d : Byte) (s : State) : Res := loadByte s (s.ea .iy d) 4 (State.testBit b)

/-- `SET b,r` (R424). -/
def execSetReg (b : BitVec 3) (r : Reg8) (s : State) : Res := .next ((s.setReg8 r (bitSet b (s.reg8 r))).retire 2)

/-- `SET b,(HL)`: the write happens even when the bit has the wanted value (R425). -/
def execSetIndHL (b : BitVec 3) (s : State) : Res := modifyByte s s.hl 2 (bitSet b)

/-- `SET b,(IX+d)` (R426). -/
def execSetIndIX (b : BitVec 3) (d : Byte) (s : State) : Res := modifyByte s (s.ea .ix d) 4 (bitSet b)

/-- `SET b,(IY+d)` (R427). -/
def execSetIndIY (b : BitVec 3) (d : Byte) (s : State) : Res := modifyByte s (s.ea .iy d) 4 (bitSet b)

/-- `RES b,r` (R428). -/
def execResReg (b : BitVec 3) (r : Reg8) (s : State) : Res := .next ((s.setReg8 r (bitReset b (s.reg8 r))).retire 2)

/-- `RES b,(HL)`: the write happens even when the bit has the wanted value (R429). -/
def execResIndHL (b : BitVec 3) (s : State) : Res := modifyByte s s.hl 2 (bitReset b)

/-- `RES b,(IX+d)` (R430). -/
def execResIndIX (b : BitVec 3) (d : Byte) (s : State) : Res := modifyByte s (s.ea .ix d) 4 (bitReset b)

/-- `RES b,(IY+d)` (R431). -/
def execResIndIY (b : BitVec 3) (d : Byte) (s : State) : Res := modifyByte s (s.ea .iy d) 4 (bitReset b)

end Sys2Proof.Machine
end

