-- ==== Sys2Proof/Machine/Exchange.lean ====
section
/-! DEFINITION. The meanings of 42_exchange_block.md: exchanges, block transfer and block search (R260 to R275). -/

namespace Sys2Proof.Machine

/-- `EX DE,HL` (R260). -/
def execExDEHL (s : State) : Res := .next (((s.setPair .de s.main.hl).setPair .hl s.main.de).retire 1)

/-- `EX AF,AF'`: all eight bits of `F` move (R261). -/
def execExAFAF (s : State) : Res :=
  .next (({ s with
    main := { s.main with a := s.alt.a, f := s.alt.f }
    alt := { s.alt with a := s.main.a, f := s.main.f } } : State).retire 1)

/-- `EXX`: `BC DE HL` with `BC' DE' HL'`; `A` and `F` stay (R262). -/
def execExx (s : State) : Res :=
  .next (({ s with
    main := { s.alt with a := s.main.a, f := s.main.f }
    alt := { s.main with a := s.alt.a, f := s.alt.f } } : State).retire 1)

/-- `EX (SP),HL` (R263). -/
def execExIndSPHL (s : State) : Res := exchangeStackTop s 1 s.hl fun v s1 => s1.setPair .hl v

/-- `EX (SP),IX` (R264). -/
def execExIndSPIX (s : State) : Res := exchangeStackTop s 2 (s.index .ix) fun v s1 => s1.setIndex .ix v

/-- `EX (SP),IY` (R265). -/
def execExIndSPIY (s : State) : Res := exchangeStackTop s 2 (s.index .iy) fun v s1 => s1.setIndex .iy v

/-! ## Block transfer -/

/-- The registers and flags after one byte `t` is moved: `HL` and `DE` go on by `step` (1, or 0xFFFF for -1, R8),
`BC` goes down by 1 (R266). -/
def State.afterMove (s : State) (step : Word) (t : Byte) : State :=
  let bc := s.main.bc - 1#16
  let s1 : State := { s with main := ((s.main.setHL (s.main.hl + step)).setDE (s.main.de + step)).setBC bc }
  s1.setFlags (ldBlockFlags s.flags s.a t bc)

/-- One byte from `(HL)` to `(DE)`, with all of the instruction's effects but those on `pc` and `R` (R266, R268). -/
def moveOne (s : State) (step : Word) : Except Fault State :=
  match readByte s s.main.hl with
  | .error f => .error f
  | .ok (t, s1) =>
    match writeByte s1 s.main.de t with
    | .error f => .error f
    | .ok s2 => .ok (s2.afterMove step t)

/-- Where a repeating block instruction goes: `PC0` to repeat, `npc` when it is done (R267, D12). -/
def State.repeatTarget (s : State) (again : Bool) : Word := if again then s.pc else s.npc 2

/-- `LDI` (R266). -/
def execLdi (s : State) : Res := andThen (moveOne s 1#16) fun s1 => .next (s1.retire 2)

/-- `LDIR`: one iteration a step; it repeats while the decremented `BC` is not 0 (R267, R525, D12). -/
def execLdir (s : State) : Res :=
  andThen (moveOne s 1#16) fun s1 => .next (s1.retireTo (s1.repeatTarget (s1.main.bc != 0#16)))

/-- `LDD` (R268). -/
def execLdd (s : State) : Res := andThen (moveOne s 0xFFFF#16) fun s1 => .next (s1.retire 2)

/-- `LDDR`: one iteration a step; it repeats while the decremented `BC` is not 0 (R269, R525, D12). -/
def execLddr (s : State) : Res :=
  andThen (moveOne s 0xFFFF#16) fun s1 => .next (s1.retireTo (s1.repeatTarget (s1.main.bc != 0#16)))

/-! ## Block search -/

/-- The registers and flags after the byte `t` is compared with `A`: `HL` goes on by `step`, `BC` down by 1 (R270). -/
def State.afterCompare (s : State) (step : Word) (t : Byte) : State :=
  let bc := s.main.bc - 1#16
  let s1 : State := { s with main := (s.main.setHL (s.main.hl + step)).setBC bc }
  s1.setFlags (cpBlockFlags s.flags s.a t bc)

/-- `A` compared with the byte at `(HL)`: the discarded difference `r`, and the state but for `pc` and `R` (R270, R272). -/
def compareOne (s : State) (step : Word) : Except Fault (Byte × State) :=
  match readByte s s.main.hl with
  | .error f => .error f
  | .ok (t, s1) => .ok ((sub8 s.a t false).1, s1.afterCompare step t)

/-- `CPI` (R270). -/
def execCpi (s : State) : Res := andThen (compareOne s 1#16) fun r => .next (r.2.retire 2)

/-- `CPIR`: it repeats "while the decremented `BC` is not 0 and no match was found" (R271, D12). -/
def execCpir (s : State) : Res :=
  andThen (compareOne s 1#16) fun r => .next (r.2.retireTo (r.2.repeatTarget (r.2.main.bc != 0#16 && r.1 != 0#8)))

/-- `CPD` (R272). -/
def execCpd (s : State) : Res := andThen (compareOne s 0xFFFF#16) fun r => .next (r.2.retire 2)

/-- `CPDR`: it repeats "while the decremented `BC` is not 0 and no match was found" (R273, D12). -/
def execCpdr (s : State) : Res :=
  andThen (compareOne s 0xFFFF#16) fun r => .next (r.2.retireTo (r.2.repeatTarget (r.2.main.bc != 0#16 && r.1 != 0#8)))

end Sys2Proof.Machine
end

