-- ==== Sys2Proof/Machine/General.lean ====
section
/-! DEFINITION. The meanings of 44_general_control.md: general-purpose arithmetic and CPU control (R340 to R355). -/

namespace Sys2Proof.Machine

/-- `DAA` (R340). -/
def execDaa (s : State) : Res := .next ((s.withAcc (daa s.flags s.a)).retire 1)

/-- `CPL`: `x[A] <- ~x[A]` (R341). -/
def execCpl (s : State) : Res := .next ((s.withAcc (~~~s.a, cplFlags s.flags (~~~s.a))).retire 1)

/-- `NEG`: `SUB8(0, x[A], 0)` (R342). -/
def execNeg (s : State) : Res := .next ((s.withAcc (sub8 0 s.a false)).retire 2)

/-- `CCF` (R343). -/
def execCcf (s : State) : Res := .next ((s.setFlags (ccfFlags s.flags s.a)).retire 1)

/-- `SCF` (R344). -/
def execScf (s : State) : Res := .next ((s.setFlags (scfFlags s.flags s.a)).retire 1)

/-- `NOP`: "nothing but `pc <- npc` and the R increment" (R345). -/
def execNop (s : State) : Res := .next (s.retire 1)

/-- `HALT`: `x[HALTED] <- 1; pc <- npc` (R346); every later step is refused (R506). -/
def execHalt (s : State) : Res := .next (({ s with halted := true } : State).retire 1)

/-- `DI`: both flip-flops to 0, at once (R347). -/
def execDi (s : State) : Res := .next (({ s with iff1 := false, iff2 := false } : State).retire 1)

/-- `EI`: both flip-flops to 1, at once: no delay (R348, R576, D10). -/
def execEi (s : State) : Res := .next (({ s with iff1 := true, iff2 := true } : State).retire 1)

/-- `IM 0` (R349). -/
def execIm0 (s : State) : Res := .next (({ s with im := .im0 } : State).retire 2)

/-- `IM 1` (R350). -/
def execIm1 (s : State) : Res := .next (({ s with im := .im1 } : State).retire 2)

/-- `IM 2` (R351). -/
def execIm2 (s : State) : Res := .next (({ s with im := .im2 } : State).retire 2)

end Sys2Proof.Machine
end

