-- ==== Sys2Proof/Machine/Io.lean ====
section
/-! DEFINITION. The meanings of 49_io.md: input and output (R470 to R485). -/

namespace Sys2Proof.Machine

/-- `IN A,(n)`: no flag changes (R470). -/
def execInAImm (n : Byte) (s : State) : Res := andThen (portRead s n) fun r => .next ((r.2.setReg8 .a r.1).retire 2)

/-- `IN r,(C)`: "reads the port named by the old `C`" (R471). -/
def execInRegC (r : Reg8) (s : State) : Res :=
  andThen (portRead s s.main.c) fun p =>
    .next (((p.2.setReg8 r p.1).setFlags (inFlags s.flags p.1)).retire 2)

/-! ## Block input and output -/

/-- The registers and flags after one byte is moved: `HL` goes on by `step`, `B` down by 1; `S Z Y X` from the new `B`,
`N = 1`, `C` unchanged, `H` and `PV` free values (R472, D20, U3). -/
def State.afterIo (s : State) (step : Word) : State :=
  let b1 := s.main.b - 1#8
  let (h, pv, s1) := s.takeFree2
  let s2 : State := { s1 with main := { s1.main.setHL (s1.main.hl + step) with b := b1 } }
  s2.setFlags (ioBlockFlags s.flags b1 h pv)

/-- One byte from port `C` to `(HL)`, but for `pc` and `R` (R472, R474). -/
def inputOne (s : State) (step : Word) : Except Fault State :=
  match portRead s s.main.c with
  | .error f => .error f
  | .ok (t, s1) =>
    match writeByte s1 s.hl t with
    | .error f => .error f
    | .ok s2 => .ok (s2.afterIo step)

/-- One byte from `(HL)` to port `C`, but for `pc` and `R` (R478, R480). `B` goes down before the port is written; no device
sees `B` (R88). -/
def outputOne (s : State) (step : Word) : Except Fault State :=
  match readByte s s.hl with
  | .error f => .error f
  | .ok (t, s1) =>
    match portWrite s1 s.main.c t with
    | .error f => .error f
    | .ok s2 => .ok (s2.afterIo step)

/-- `INI` (R472). -/
def execIni (s : State) : Res := andThen (inputOne s 1#16) fun s1 => .next (s1.retire 2)

/-- `INIR`: one iteration a step; it repeats while the decremented `B` is not 0 (R473, D12). -/
def execInir (s : State) : Res :=
  andThen (inputOne s 1#16) fun s1 => .next (s1.retireTo (s1.repeatTarget (s1.main.b != 0#8)))

/-- `IND` (R474). -/
def execInd (s : State) : Res := andThen (inputOne s 0xFFFF#16) fun s1 => .next (s1.retire 2)

/-- `INDR`: one iteration a step; it repeats while the decremented `B` is not 0 (R475, D12). -/
def execIndr (s : State) : Res :=
  andThen (inputOne s 0xFFFF#16) fun s1 => .next (s1.retireTo (s1.repeatTarget (s1.main.b != 0#8)))

/-- `OUT (n),A` (R476). -/
def execOutImmA (n : Byte) (s : State) : Res := andThen (portWrite s n s.a) fun s1 => .next (s1.retire 2)

/-- `OUT (C),r` (R477). -/
def execOutCReg (r : Reg8) (s : State) : Res :=
  andThen (portWrite s s.main.c (s.reg8 r)) fun s1 => .next (s1.retire 2)

/-- `OUTI` (R478). -/
def execOuti (s : State) : Res := andThen (outputOne s 1#16) fun s1 => .next (s1.retire 2)

/-- `OTIR`: one iteration a step; it repeats while the decremented `B` is not 0 (R479, D12). -/
def execOtir (s : State) : Res :=
  andThen (outputOne s 1#16) fun s1 => .next (s1.retireTo (s1.repeatTarget (s1.main.b != 0#8)))

/-- `OUTD` (R480). -/
def execOutd (s : State) : Res := andThen (outputOne s 0xFFFF#16) fun s1 => .next (s1.retire 2)

/-- `OTDR`: one iteration a step; it repeats while the decremented `B` is not 0 (R481, D12). -/
def execOtdr (s : State) : Res :=
  andThen (outputOne s 0xFFFF#16) fun s1 => .next (s1.retireTo (s1.repeatTarget (s1.main.b != 0#8)))

end Sys2Proof.Machine
end

