-- ==== Sys2Proof/Machine/Jump.lean ====
section
/-! DEFINITION. The meanings of 48_jump_call.md: jumps, calls, returns and restarts (R440 to R460). -/

namespace Sys2Proof.Machine

/-- `JP nn` (R440). -/
def execJp (nn : Word) (s : State) : Res := .next (s.retireTo nn)

/-- `JP cc,nn` (R441). -/
def execJpCond (cc : Cond) (nn : Word) (s : State) : Res :=
  .next (s.retireTo (if s.flags.cond cc then nn else s.npc 3))

/-- Where a relative jump of length 2 goes: `(npc + sext_16(e)) mod 65536` when taken, else `npc` (R442, R443, R450). -/
def State.jrTarget (s : State) (taken : Bool) (e : Byte) : Word := if taken then s.branchTarget 2 e else s.npc 2

/-- `JR e` (R442). -/
def execJr (e : Byte) (s : State) : Res := .next (s.retireTo (s.branchTarget 2 e))

/-- `JR C,e`: `cond(3)` (R443). -/
def execJrC (e : Byte) (s : State) : Res := .next (s.retireTo (s.jrTarget (s.flags.cond .c) e))

/-- `JR NC,e`: `cond(2)` (R444). -/
def execJrNC (e : Byte) (s : State) : Res := .next (s.retireTo (s.jrTarget (s.flags.cond .nc) e))

/-- `JR Z,e`: `cond(1)` (R445). -/
def execJrZ (e : Byte) (s : State) : Res := .next (s.retireTo (s.jrTarget (s.flags.cond .z) e))

/-- `JR NZ,e`: `cond(0)` (R446). -/
def execJrNZ (e : Byte) (s : State) : Res := .next (s.retireTo (s.jrTarget (s.flags.cond .nz) e))

/-- `JP (HL)`: "no memory is read: the target is the register value" (R447). -/
def execJpHL (s : State) : Res := .next (s.retireTo s.hl)

/-- `JP (IX)` (R448). -/
def execJpIX (s : State) : Res := .next (s.retireTo s.ix)

/-- `JP (IY)` (R449). -/
def execJpIY (s : State) : Res := .next (s.retireTo s.iy)

/-- `DJNZ e`: "the decrement of `B` sets no flag" (R450). -/
def execDjnz (e : Byte) (s : State) : Res :=
  let b := s.main.b - 1#8
  .next ((s.setReg8 .b b).retireTo (s.jrTarget (b != 0#8) e))

/-- `CALL nn` (R451). -/
def execCall (nn : Word) (s : State) : Res := callTo s 3 nn

/-- `CALL cc,nn` (R452). -/
def execCallCond (cc : Cond) (nn : Word) (s : State) : Res :=
  if s.flags.cond cc then callTo s 3 nn else .next (s.retire 3)

/-- `RET` (R453). -/
def execRet (s : State) : Res := andThen (popPc s) .next

/-- `RET cc` (R454). -/
def execRetCond (cc : Cond) (s : State) : Res :=
  if s.flags.cond cc then andThen (popPc s) .next else .next (s.retire 1)

/-- `RETI`: "`IFF1` and `IFF2` are not changed", no device is signalled (R455, D19). -/
def execReti (s : State) : Res := andThen (popPc s) fun s1 => .next s1

/-- `RETN`: `pc <- Pop16(); x[IFF1] <- x[IFF2]` (R456). -/
def execRetn (s : State) : Res := andThen (popPc s) fun s1 => .next s1.restoreIff1

/-- `RST p`: `Push16(npc); pc <- 8 * t` (R457, R115). -/
def execRst (t : BitVec 3) (s : State) : Res := callTo s 1 (BitVec.ofNat 16 (8 * t.toNat))

end Sys2Proof.Machine
end

