-- ==== Sys2Proof/Machine/Load16.lean ====
section
/-! DEFINITION. The meanings of 41_load16.md: the 16-bit loads, `PUSH` and `POP` (R230 to R250, R255). -/

namespace Sys2Proof.Machine

/-- `LD dd,nn` (R231). -/
def execLdPairImm (dd : Pair) (nn : Word) (s : State) : Res := .next ((s.setPair dd nn).retire 3)

/-- `LD IX,nn` (R232). -/
def execLdIXImm (nn : Word) (s : State) : Res := .next ((s.setIndex .ix nn).retire 4)

/-- `LD IY,nn` (R233). -/
def execLdIYImm (nn : Word) (s : State) : Res := .next ((s.setIndex .iy nn).retire 4)

/-- `LD HL,(nn)` (R234). -/
def execLdHLIndNN (nn : Word) (s : State) : Res := loadWord s nn 3 fun v s1 => s1.setPair .hl v

/-- `LD dd,(nn)`: the `ED` form (R235, R134). -/
def execLdPairIndNN (dd : Pair) (nn : Word) (s : State) : Res := loadWord s nn 4 fun v s1 => s1.setPair dd v

/-- `LD IX,(nn)` (R236). -/
def execLdIXIndNN (nn : Word) (s : State) : Res := loadWord s nn 4 fun v s1 => s1.setIndex .ix v

/-- `LD IY,(nn)` (R237). -/
def execLdIYIndNN (nn : Word) (s : State) : Res := loadWord s nn 4 fun v s1 => s1.setIndex .iy v

/-- `LD (nn),HL` (R238). -/
def execLdIndNNHL (nn : Word) (s : State) : Res := storeWord s nn 3 s.hl

/-- `LD (nn),dd`: the `ED` form (R239, R134). -/
def execLdIndNNPair (nn : Word) (dd : Pair) (s : State) : Res := storeWord s nn 4 (s.pair dd)

/-- `LD (nn),IX` (R240). -/
def execLdIndNNIX (nn : Word) (s : State) : Res := storeWord s nn 4 (s.index .ix)

/-- `LD (nn),IY` (R241). -/
def execLdIndNNIY (nn : Word) (s : State) : Res := storeWord s nn 4 (s.index .iy)

/-- `LD SP,HL` (R242). -/
def execLdSPHL (s : State) : Res := .next ((s.setPair .sp s.hl).retire 1)

/-- `LD SP,IX` (R243). -/
def execLdSPIX (s : State) : Res := .next ((s.setPair .sp (s.index .ix)).retire 2)

/-- `LD SP,IY` (R244). -/
def execLdSPIY (s : State) : Res := .next ((s.setPair .sp (s.index .iy)).retire 2)

/-- `PUSH qq` (R245). -/
def execPushPair (qq : StackPair) (s : State) : Res := pushWord s 1 (s.stackPair qq)

/-- `PUSH IX` (R246). -/
def execPushIX (s : State) : Res := pushWord s 2 (s.index .ix)

/-- `PUSH IY` (R247). -/
def execPushIY (s : State) : Res := pushWord s 2 (s.index .iy)

/-- `POP qq`: "`POP AF` loads all eight bits of `F`" (R248). -/
def execPopPair (qq : StackPair) (s : State) : Res := popWord s 1 fun v s1 => s1.setStackPair qq v

/-- `POP IX` (R249). -/
def execPopIX (s : State) : Res := popWord s 2 fun v s1 => s1.setIndex .ix v

/-- `POP IY` (R250). -/
def execPopIY (s : State) : Res := popWord s 2 fun v s1 => s1.setIndex .iy v

end Sys2Proof.Machine
end

