-- ==== Sys2Proof/Machine/Load8.lean ====
section
/-! DEFINITION. The meanings of 40_load8.md: the 8-bit loads (R200 to R220, R225). -/

namespace Sys2Proof.Machine

/-- `LD r,r'`: `x[r] <- x[r']` (R200). -/
def execLdRegReg (r r1 : Reg8) (s : State) : Res := .next ((s.setReg8 r (s.reg8 r1)).retire 1)

/-- `LD r,n`: `x[r] <- n` (R201). -/
def execLdRegImm (r : Reg8) (n : Byte) (s : State) : Res := .next ((s.setReg8 r n).retire 2)

/-- `LD r,(HL)`: the address uses the old `HL` (R202). -/
def execLdRegIndHL (r : Reg8) (s : State) : Res := loadByte s s.hl 1 fun v s1 => s1.setReg8 r v

/-- `LD r,(IX+d)` (R203). -/
def execLdRegIndIX (r : Reg8) (d : Byte) (s : State) : Res := loadByte s (s.ea .ix d) 3 fun v s1 => s1.setReg8 r v

/-- `LD r,(IY+d)` (R204). -/
def execLdRegIndIY (r : Reg8) (d : Byte) (s : State) : Res := loadByte s (s.ea .iy d) 3 fun v s1 => s1.setReg8 r v

/-- `LD (HL),r` (R205). -/
def execLdIndHLReg (r : Reg8) (s : State) : Res := storeByte s s.hl 1 (s.reg8 r)

/-- `LD (IX+d),r` (R206). -/
def execLdIndIXReg (d : Byte) (r : Reg8) (s : State) : Res := storeByte s (s.ea .ix d) 3 (s.reg8 r)

/-- `LD (IY+d),r` (R207). -/
def execLdIndIYReg (d : Byte) (r : Reg8) (s : State) : Res := storeByte s (s.ea .iy d) 3 (s.reg8 r)

/-- `LD (HL),n` (R208). -/
def execLdIndHLImm (n : Byte) (s : State) : Res := storeByte s s.hl 2 n

/-- `LD (IX+d),n` (R209). -/
def execLdIndIXImm (d n : Byte) (s : State) : Res := storeByte s (s.ea .ix d) 4 n

/-- `LD (IY+d),n` (R210). -/
def execLdIndIYImm (d n : Byte) (s : State) : Res := storeByte s (s.ea .iy d) 4 n

/-- `LD A,(BC)` (R211). -/
def execLdAIndBC (s : State) : Res := loadByte s s.main.bc 1 fun v s1 => s1.setReg8 .a v

/-- `LD A,(DE)` (R212). -/
def execLdAIndDE (s : State) : Res := loadByte s s.main.de 1 fun v s1 => s1.setReg8 .a v

/-- `LD A,(nn)` (R213). -/
def execLdAIndNN (nn : Word) (s : State) : Res := loadByte s nn 3 fun v s1 => s1.setReg8 .a v

/-- `LD (BC),A` (R214). -/
def execLdIndBCA (s : State) : Res := storeByte s s.main.bc 1 s.a

/-- `LD (DE),A` (R215). -/
def execLdIndDEA (s : State) : Res := storeByte s s.main.de 1 s.a

/-- `LD (nn),A` (R216). -/
def execLdIndNNA (nn : Word) (s : State) : Res := storeByte s nn 3 s.a

/-- `LD A,I`: `PV = x[IFF2]` (R217, D29). -/
def execLdAI (s : State) : Res := .next (((s.setReg8 .a s.i).setFlags (irFlags s.flags s.i s.iff2)).retire 2)

/-- `LD A,R`: "the value of `R` before this instruction's own increment" (R218, D5). -/
def execLdAR (s : State) : Res := .next (((s.setReg8 .a s.r).setFlags (irFlags s.flags s.r s.iff2)).retire 2)

/-- `LD I,A` (R219). -/
def execLdIA (s : State) : Res := .next (({ s with i := s.a } : State).retire 2)

/-- `LD R,A`: all 8 bits; "then the common R increment" (R220). -/
def execLdRA (s : State) : Res := .next (({ s with r := s.a } : State).retire 2)

end Sys2Proof.Machine
end

