-- ==== Sys2Proof/Machine/Rotate.lean ====
section
/-! DEFINITION. The meanings of 46_rotate_shift.md: rotates and shifts (R380 to R415). -/

namespace Sys2Proof.Machine

/-- The result and the flags of a `CB`-page rotate or shift (R40, R41). -/
def shifted (op : Byte → Byte × Bool) (v : Byte) : Byte × Flags := ((op v).1, shiftFlags (op v))

/-- An accumulator rotate: `A` and the flags of `ACCROTF` (R41). -/
def State.rotateAcc (s : State) (res : Byte × Bool) : State := s.withAcc (res.1, accRotFlags s.flags res)

/-- `RLCA` (R380). -/
def execRlca (s : State) : Res := .next ((s.rotateAcc (rlc s.a)).retire 1)

/-- `RLA` (R381). -/
def execRla (s : State) : Res := .next ((s.rotateAcc (rl s.a s.flags.c)).retire 1)

/-- `RRCA` (R382). -/
def execRrca (s : State) : Res := .next ((s.rotateAcc (rrc s.a)).retire 1)

/-- `RRA` (R383). -/
def execRra (s : State) : Res := .next ((s.rotateAcc (rr s.a s.flags.c)).retire 1)

/-- `RLC r` (R384). -/
def execRlcReg (r : Reg8) (s : State) : Res := .next ((s.updateReg r (shifted rlc)).retire 2)

/-- `RLC (HL)` (R385). -/
def execRlcIndHL (s : State) : Res := modifyByteFlags s s.hl 2 (shifted rlc)

/-- `RLC (IX+d)` (R386). -/
def execRlcIndIX (d : Byte) (s : State) : Res := modifyByteFlags s (s.ea .ix d) 4 (shifted rlc)

/-- `RLC (IY+d)` (R387). -/
def execRlcIndIY (d : Byte) (s : State) : Res := modifyByteFlags s (s.ea .iy d) 4 (shifted rlc)

/-- `RRC r` (R388). -/
def execRrcReg (r : Reg8) (s : State) : Res := .next ((s.updateReg r (shifted rrc)).retire 2)

/-- `RRC (HL)` (R389). -/
def execRrcIndHL (s : State) : Res := modifyByteFlags s s.hl 2 (shifted rrc)

/-- `RRC (IX+d)` (R390). -/
def execRrcIndIX (d : Byte) (s : State) : Res := modifyByteFlags s (s.ea .ix d) 4 (shifted rrc)

/-- `RRC (IY+d)` (R391). -/
def execRrcIndIY (d : Byte) (s : State) : Res := modifyByteFlags s (s.ea .iy d) 4 (shifted rrc)

/-- `RL r` (R392). -/
def execRlReg (r : Reg8) (s : State) : Res := .next ((s.updateReg r (shifted fun v => rl v s.flags.c)).retire 2)

/-- `RL (HL)` (R393). -/
def execRlIndHL (s : State) : Res := modifyByteFlags s s.hl 2 (shifted fun v => rl v s.flags.c)

/-- `RL (IX+d)` (R394). -/
def execRlIndIX (d : Byte) (s : State) : Res := modifyByteFlags s (s.ea .ix d) 4 (shifted fun v => rl v s.flags.c)

/-- `RL (IY+d)` (R395). -/
def execRlIndIY (d : Byte) (s : State) : Res := modifyByteFlags s (s.ea .iy d) 4 (shifted fun v => rl v s.flags.c)

/-- `RR r` (R396). -/
def execRrReg (r : Reg8) (s : State) : Res := .next ((s.updateReg r (shifted fun v => rr v s.flags.c)).retire 2)

/-- `RR (HL)` (R397). -/
def execRrIndHL (s : State) : Res := modifyByteFlags s s.hl 2 (shifted fun v => rr v s.flags.c)

/-- `RR (IX+d)` (R398). -/
def execRrIndIX (d : Byte) (s : State) : Res := modifyByteFlags s (s.ea .ix d) 4 (shifted fun v => rr v s.flags.c)

/-- `RR (IY+d)` (R399). -/
def execRrIndIY (d : Byte) (s : State) : Res := modifyByteFlags s (s.ea .iy d) 4 (shifted fun v => rr v s.flags.c)

/-- `SLA r` (R400). -/
def execSlaReg (r : Reg8) (s : State) : Res := .next ((s.updateReg r (shifted sla)).retire 2)

/-- `SLA (HL)` (R401). -/
def execSlaIndHL (s : State) : Res := modifyByteFlags s s.hl 2 (shifted sla)

/-- `SLA (IX+d)` (R402). -/
def execSlaIndIX (d : Byte) (s : State) : Res := modifyByteFlags s (s.ea .ix d) 4 (shifted sla)

/-- `SLA (IY+d)` (R403). -/
def execSlaIndIY (d : Byte) (s : State) : Res := modifyByteFlags s (s.ea .iy d) 4 (shifted sla)

/-- `SRA r` (R404). -/
def execSraReg (r : Reg8) (s : State) : Res := .next ((s.updateReg r (shifted sra)).retire 2)

/-- `SRA (HL)` (R405). -/
def execSraIndHL (s : State) : Res := modifyByteFlags s s.hl 2 (shifted sra)

/-- `SRA (IX+d)` (R406). -/
def execSraIndIX (d : Byte) (s : State) : Res := modifyByteFlags s (s.ea .ix d) 4 (shifted sra)

/-- `SRA (IY+d)` (R407). -/
def execSraIndIY (d : Byte) (s : State) : Res := modifyByteFlags s (s.ea .iy d) 4 (shifted sra)

/-- `SRL r` (R408). -/
def execSrlReg (r : Reg8) (s : State) : Res := .next ((s.updateReg r (shifted srl)).retire 2)

/-- `SRL (HL)` (R409). -/
def execSrlIndHL (s : State) : Res := modifyByteFlags s s.hl 2 (shifted srl)

/-- `SRL (IX+d)` (R410). -/
def execSrlIndIX (d : Byte) (s : State) : Res := modifyByteFlags s (s.ea .ix d) 4 (shifted srl)

/-- `SRL (IY+d)` (R411). -/
def execSrlIndIY (d : Byte) (s : State) : Res := modifyByteFlags s (s.ea .iy d) 4 (shifted srl)

/-- A digit rotate: the byte at `(HL)` becomes `toMem A t`, and `A` becomes `toAcc A t` with the flags of the new `A`; `C`
unchanged (R412, R413). -/
def digitRotate (s : State) (toMem toAcc : Byte → Byte → Byte) : Res :=
  andThen (readByte s s.hl) fun r =>
    andThen (writeByte r.2 s.hl (toMem s.a r.1)) fun s1 =>
      .next ((s1.withAcc (toAcc s.a r.1, inFlags s.flags (toAcc s.a r.1))).retire 2)

/-- `RLD`: `A[3:0]`, `(HL)[7:4]`, `(HL)[3:0]` rotate left by one digit (R412). -/
def execRld (s : State) : Res :=
  digitRotate s (fun a t => (t <<< 4) ||| (a &&& 0x0F)) (fun a t => (a &&& 0xF0) ||| (t >>> 4))

/-- `RRD`: the inverse digit rotate (R413). -/
def execRrd (s : State) : Res :=
  digitRotate s (fun a t => (a <<< 4) ||| (t >>> 4)) (fun a t => (a &&& 0xF0) ||| (t &&& 0x0F))

end Sys2Proof.Machine
end

