-- ==== Sys2Proof/Machine/Dispatch.lean ====
section
/-! DEFINITION. The meaning of each instruction: one arm per constructor of `Instr`, one direct call each. -/

namespace Sys2Proof.Machine

def exec (i : Instr) (s : State) : Host.Outcome State Fault Refusal :=
  match i with
  -- 40_load8.md
  | .ldRegReg r r1 => Sys2Proof.Machine.execLdRegReg r r1 s
  | .ldRegImm r n => Sys2Proof.Machine.execLdRegImm r n s
  | .ldRegIndHL r => Sys2Proof.Machine.execLdRegIndHL r s
  | .ldRegIndIX r d => Sys2Proof.Machine.execLdRegIndIX r d s
  | .ldRegIndIY r d => Sys2Proof.Machine.execLdRegIndIY r d s
  | .ldIndHLReg r => Sys2Proof.Machine.execLdIndHLReg r s
  | .ldIndIXReg d r => Sys2Proof.Machine.execLdIndIXReg d r s
  | .ldIndIYReg d r => Sys2Proof.Machine.execLdIndIYReg d r s
  | .ldIndHLImm n => Sys2Proof.Machine.execLdIndHLImm n s
  | .ldIndIXImm d n => Sys2Proof.Machine.execLdIndIXImm d n s
  | .ldIndIYImm d n => Sys2Proof.Machine.execLdIndIYImm d n s
  | .ldAIndBC => Sys2Proof.Machine.execLdAIndBC s
  | .ldAIndDE => Sys2Proof.Machine.execLdAIndDE s
  | .ldAIndNN nn => Sys2Proof.Machine.execLdAIndNN nn s
  | .ldIndBCA => Sys2Proof.Machine.execLdIndBCA s
  | .ldIndDEA => Sys2Proof.Machine.execLdIndDEA s
  | .ldIndNNA nn => Sys2Proof.Machine.execLdIndNNA nn s
  | .ldAI => Sys2Proof.Machine.execLdAI s
  | .ldAR => Sys2Proof.Machine.execLdAR s
  | .ldIA => Sys2Proof.Machine.execLdIA s
  | .ldRA => Sys2Proof.Machine.execLdRA s
  -- 41_load16.md
  | .ldPairImm dd nn => Sys2Proof.Machine.execLdPairImm dd nn s
  | .ldIXImm nn => Sys2Proof.Machine.execLdIXImm nn s
  | .ldIYImm nn => Sys2Proof.Machine.execLdIYImm nn s
  | .ldHLIndNN nn => Sys2Proof.Machine.execLdHLIndNN nn s
  | .ldPairIndNN dd nn => Sys2Proof.Machine.execLdPairIndNN dd nn s
  | .ldIXIndNN nn => Sys2Proof.Machine.execLdIXIndNN nn s
  | .ldIYIndNN nn => Sys2Proof.Machine.execLdIYIndNN nn s
  | .ldIndNNHL nn => Sys2Proof.Machine.execLdIndNNHL nn s
  | .ldIndNNPair nn dd => Sys2Proof.Machine.execLdIndNNPair nn dd s
  | .ldIndNNIX nn => Sys2Proof.Machine.execLdIndNNIX nn s
  | .ldIndNNIY nn => Sys2Proof.Machine.execLdIndNNIY nn s
  | .ldSPHL => Sys2Proof.Machine.execLdSPHL s
  | .ldSPIX => Sys2Proof.Machine.execLdSPIX s
  | .ldSPIY => Sys2Proof.Machine.execLdSPIY s
  | .pushPair qq => Sys2Proof.Machine.execPushPair qq s
  | .pushIX => Sys2Proof.Machine.execPushIX s
  | .pushIY => Sys2Proof.Machine.execPushIY s
  | .popPair qq => Sys2Proof.Machine.execPopPair qq s
  | .popIX => Sys2Proof.Machine.execPopIX s
  | .popIY => Sys2Proof.Machine.execPopIY s
  -- 42_exchange_block.md
  | .exDEHL => Sys2Proof.Machine.execExDEHL s
  | .exAFAF => Sys2Proof.Machine.execExAFAF s
  | .exx => Sys2Proof.Machine.execExx s
  | .exIndSPHL => Sys2Proof.Machine.execExIndSPHL s
  | .exIndSPIX => Sys2Proof.Machine.execExIndSPIX s
  | .exIndSPIY => Sys2Proof.Machine.execExIndSPIY s
  | .ldi => Sys2Proof.Machine.execLdi s
  | .ldir => Sys2Proof.Machine.execLdir s
  | .ldd => Sys2Proof.Machine.execLdd s
  | .lddr => Sys2Proof.Machine.execLddr s
  | .cpi => Sys2Proof.Machine.execCpi s
  | .cpir => Sys2Proof.Machine.execCpir s
  | .cpd => Sys2Proof.Machine.execCpd s
  | .cpdr => Sys2Proof.Machine.execCpdr s
  -- 43_alu8.md
  | .addReg r => Sys2Proof.Machine.execAddReg r s
  | .addImm n => Sys2Proof.Machine.execAddImm n s
  | .addIndHL => Sys2Proof.Machine.execAddIndHL s
  | .addIndIX d => Sys2Proof.Machine.execAddIndIX d s
  | .addIndIY d => Sys2Proof.Machine.execAddIndIY d s
  | .adcReg r => Sys2Proof.Machine.execAdcReg r s
  | .adcImm n => Sys2Proof.Machine.execAdcImm n s
  | .adcIndHL => Sys2Proof.Machine.execAdcIndHL s
  | .adcIndIX d => Sys2Proof.Machine.execAdcIndIX d s
  | .adcIndIY d => Sys2Proof.Machine.execAdcIndIY d s
  | .subReg r => Sys2Proof.Machine.execSubReg r s
  | .subImm n => Sys2Proof.Machine.execSubImm n s
  | .subIndHL => Sys2Proof.Machine.execSubIndHL s
  | .subIndIX d => Sys2Proof.Machine.execSubIndIX d s
  | .subIndIY d => Sys2Proof.Machine.execSubIndIY d s
  | .sbcReg r => Sys2Proof.Machine.execSbcReg r s
  | .sbcImm n => Sys2Proof.Machine.execSbcImm n s
  | .sbcIndHL => Sys2Proof.Machine.execSbcIndHL s
  | .sbcIndIX d => Sys2Proof.Machine.execSbcIndIX d s
  | .sbcIndIY d => Sys2Proof.Machine.execSbcIndIY d s
  | .andReg r => Sys2Proof.Machine.execAndReg r s
  | .andImm n => Sys2Proof.Machine.execAndImm n s
  | .andIndHL => Sys2Proof.Machine.execAndIndHL s
  | .andIndIX d => Sys2Proof.Machine.execAndIndIX d s
  | .andIndIY d => Sys2Proof.Machine.execAndIndIY d s
  | .xorReg r => Sys2Proof.Machine.execXorReg r s
  | .xorImm n => Sys2Proof.Machine.execXorImm n s
  | .xorIndHL => Sys2Proof.Machine.execXorIndHL s
  | .xorIndIX d => Sys2Proof.Machine.execXorIndIX d s
  | .xorIndIY d => Sys2Proof.Machine.execXorIndIY d s
  | .orReg r => Sys2Proof.Machine.execOrReg r s
  | .orImm n => Sys2Proof.Machine.execOrImm n s
  | .orIndHL => Sys2Proof.Machine.execOrIndHL s
  | .orIndIX d => Sys2Proof.Machine.execOrIndIX d s
  | .orIndIY d => Sys2Proof.Machine.execOrIndIY d s
  | .cpReg r => Sys2Proof.Machine.execCpReg r s
  | .cpImm n => Sys2Proof.Machine.execCpImm n s
  | .cpIndHL => Sys2Proof.Machine.execCpIndHL s
  | .cpIndIX d => Sys2Proof.Machine.execCpIndIX d s
  | .cpIndIY d => Sys2Proof.Machine.execCpIndIY d s
  | .incReg r => Sys2Proof.Machine.execIncReg r s
  | .incIndHL => Sys2Proof.Machine.execIncIndHL s
  | .incIndIX d => Sys2Proof.Machine.execIncIndIX d s
  | .incIndIY d => Sys2Proof.Machine.execIncIndIY d s
  | .decReg r => Sys2Proof.Machine.execDecReg r s
  | .decIndHL => Sys2Proof.Machine.execDecIndHL s
  | .decIndIX d => Sys2Proof.Machine.execDecIndIX d s
  | .decIndIY d => Sys2Proof.Machine.execDecIndIY d s
  -- 44_general_control.md
  | .daa => Sys2Proof.Machine.execDaa s
  | .cpl => Sys2Proof.Machine.execCpl s
  | .neg => Sys2Proof.Machine.execNeg s
  | .ccf => Sys2Proof.Machine.execCcf s
  | .scf => Sys2Proof.Machine.execScf s
  | .nop => Sys2Proof.Machine.execNop s
  | .halt => Sys2Proof.Machine.execHalt s
  | .di => Sys2Proof.Machine.execDi s
  | .ei => Sys2Proof.Machine.execEi s
  | .im0 => Sys2Proof.Machine.execIm0 s
  | .im1 => Sys2Proof.Machine.execIm1 s
  | .im2 => Sys2Proof.Machine.execIm2 s
  -- 45_alu16.md
  | .addHLPair ss => Sys2Proof.Machine.execAddHLPair ss s
  | .adcHLPair ss => Sys2Proof.Machine.execAdcHLPair ss s
  | .sbcHLPair ss => Sys2Proof.Machine.execSbcHLPair ss s
  | .addIXPair pp => Sys2Proof.Machine.execAddIXPair pp s
  | .addIYPair rr => Sys2Proof.Machine.execAddIYPair rr s
  | .incPair ss => Sys2Proof.Machine.execIncPair ss s
  | .incIX => Sys2Proof.Machine.execIncIX s
  | .incIY => Sys2Proof.Machine.execIncIY s
  | .decPair ss => Sys2Proof.Machine.execDecPair ss s
  | .decIX => Sys2Proof.Machine.execDecIX s
  | .decIY => Sys2Proof.Machine.execDecIY s
  -- 46_rotate_shift.md
  | .rlca => Sys2Proof.Machine.execRlca s
  | .rla => Sys2Proof.Machine.execRla s
  | .rrca => Sys2Proof.Machine.execRrca s
  | .rra => Sys2Proof.Machine.execRra s
  | .rlcReg r => Sys2Proof.Machine.execRlcReg r s
  | .rlcIndHL => Sys2Proof.Machine.execRlcIndHL s
  | .rlcIndIX d => Sys2Proof.Machine.execRlcIndIX d s
  | .rlcIndIY d => Sys2Proof.Machine.execRlcIndIY d s
  | .rrcReg r => Sys2Proof.Machine.execRrcReg r s
  | .rrcIndHL => Sys2Proof.Machine.execRrcIndHL s
  | .rrcIndIX d => Sys2Proof.Machine.execRrcIndIX d s
  | .rrcIndIY d => Sys2Proof.Machine.execRrcIndIY d s
  | .rlReg r => Sys2Proof.Machine.execRlReg r s
  | .rlIndHL => Sys2Proof.Machine.execRlIndHL s
  | .rlIndIX d => Sys2Proof.Machine.execRlIndIX d s
  | .rlIndIY d => Sys2Proof.Machine.execRlIndIY d s
  | .rrReg r => Sys2Proof.Machine.execRrReg r s
  | .rrIndHL => Sys2Proof.Machine.execRrIndHL s
  | .rrIndIX d => Sys2Proof.Machine.execRrIndIX d s
  | .rrIndIY d => Sys2Proof.Machine.execRrIndIY d s
  | .slaReg r => Sys2Proof.Machine.execSlaReg r s
  | .slaIndHL => Sys2Proof.Machine.execSlaIndHL s
  | .slaIndIX d => Sys2Proof.Machine.execSlaIndIX d s
  | .slaIndIY d => Sys2Proof.Machine.execSlaIndIY d s
  | .sraReg r => Sys2Proof.Machine.execSraReg r s
  | .sraIndHL => Sys2Proof.Machine.execSraIndHL s
  | .sraIndIX d => Sys2Proof.Machine.execSraIndIX d s
  | .sraIndIY d => Sys2Proof.Machine.execSraIndIY d s
  | .srlReg r => Sys2Proof.Machine.execSrlReg r s
  | .srlIndHL => Sys2Proof.Machine.execSrlIndHL s
  | .srlIndIX d => Sys2Proof.Machine.execSrlIndIX d s
  | .srlIndIY d => Sys2Proof.Machine.execSrlIndIY d s
  | .rld => Sys2Proof.Machine.execRld s
  | .rrd => Sys2Proof.Machine.execRrd s
  -- 47_bit.md
  | .bitReg b r => Sys2Proof.Machine.execBitReg b r s
  | .bitIndHL b => Sys2Proof.Machine.execBitIndHL b s
  | .bitIndIX b d => Sys2Proof.Machine.execBitIndIX b d s
  | .bitIndIY b d => Sys2Proof.Machine.execBitIndIY b d s
  | .setReg b r => Sys2Proof.Machine.execSetReg b r s
  | .setIndHL b => Sys2Proof.Machine.execSetIndHL b s
  | .setIndIX b d => Sys2Proof.Machine.execSetIndIX b d s
  | .setIndIY b d => Sys2Proof.Machine.execSetIndIY b d s
  | .resReg b r => Sys2Proof.Machine.execResReg b r s
  | .resIndHL b => Sys2Proof.Machine.execResIndHL b s
  | .resIndIX b d => Sys2Proof.Machine.execResIndIX b d s
  | .resIndIY b d => Sys2Proof.Machine.execResIndIY b d s
  -- 48_jump_call.md
  | .jp nn => Sys2Proof.Machine.execJp nn s
  | .jpCond cc nn => Sys2Proof.Machine.execJpCond cc nn s
  | .jr e => Sys2Proof.Machine.execJr e s
  | .jrC e => Sys2Proof.Machine.execJrC e s
  | .jrNC e => Sys2Proof.Machine.execJrNC e s
  | .jrZ e => Sys2Proof.Machine.execJrZ e s
  | .jrNZ e => Sys2Proof.Machine.execJrNZ e s
  | .jpHL => Sys2Proof.Machine.execJpHL s
  | .jpIX => Sys2Proof.Machine.execJpIX s
  | .jpIY => Sys2Proof.Machine.execJpIY s
  | .djnz e => Sys2Proof.Machine.execDjnz e s
  | .call nn => Sys2Proof.Machine.execCall nn s
  | .callCond cc nn => Sys2Proof.Machine.execCallCond cc nn s
  | .ret => Sys2Proof.Machine.execRet s
  | .retCond cc => Sys2Proof.Machine.execRetCond cc s
  | .reti => Sys2Proof.Machine.execReti s
  | .retn => Sys2Proof.Machine.execRetn s
  | .rst t => Sys2Proof.Machine.execRst t s
  -- 49_io.md
  | .inAImm n => Sys2Proof.Machine.execInAImm n s
  | .inRegC r => Sys2Proof.Machine.execInRegC r s
  | .ini => Sys2Proof.Machine.execIni s
  | .inir => Sys2Proof.Machine.execInir s
  | .ind => Sys2Proof.Machine.execInd s
  | .indr => Sys2Proof.Machine.execIndr s
  | .outImmA n => Sys2Proof.Machine.execOutImmA n s
  | .outCReg r => Sys2Proof.Machine.execOutCReg r s
  | .outi => Sys2Proof.Machine.execOuti s
  | .otir => Sys2Proof.Machine.execOtir s
  | .outd => Sys2Proof.Machine.execOutd s
  | .otdr => Sys2Proof.Machine.execOtdr s

end Sys2Proof.Machine
end

