-- ==== Sys2Proof/Machine/Fetch.lean ====
section
/-! DEFINITION. Fetching an instruction (R82, R101, R505): byte reads at `pc`, `pc + 1`, ... "in ascending order, each once",
until the decoder has an instruction or an empty entry. -/

namespace Sys2Proof.Machine

/-- Go on fetching at `a`, `seen` already read; `fuel` bounds the bytes still to come ("The longest instruction is 4 bytes",
R108). With 4 bytes seen the decoder is never left incomplete, so the last case is not reached from `fetch`. -/
def fetchFrom : (fuel : Nat) → (seen : List Byte) → (a : Word) → State → Except Fault (Instr × State)
  | 0, seen, _, _ => .error (.invalidInstruction seen)
  | fuel + 1, seen, a, s =>
    match readByte s a with
    | .error f => .error f
    | .ok (v, s1) =>
      match decode (seen ++ [v]) with
      | .ok i _ => .ok (i, s1)
      | .invalid bs => .error (.invalidInstruction bs)
      | .incomplete => fetchFrom fuel (seen ++ [v]) (a + 1#16) s1

/-- The instruction at `pc`, and the state after the fetch reads (a custom device may change at a read). `pc` itself keeps
the value `PC0` (R25). -/
def fetch (s : State) : Except Fault (Instr × State) := fetchFrom 4 [] s.pc s

end Sys2Proof.Machine
end

