-- ==== Sys2Proof/Machine/Cycle.lean ====
section
/-! DEFINITION. One step (R500): the halted test, the device ticks, the arbitration, then either the entry of an accepted
interrupt or the fetch and execution of the instruction at `pc`. -/

namespace Sys2Proof.Machine

/-! ## Ticks and arbitration -/

/-- "`tick_j()` is called once on every device of `IODEVS` in registration order"; a tick changes no register and no memory
(R509). -/
def State.tickAll (s : State) : State := { s with iodevs := s.iodevs.map IODev.tick }

/-- The first device that asserts NMI (R512). -/
def firstNmi : List IODev → Option Nat
  | [] => none
  | d :: ds =>
    match d.irq with
    | some .nmi => some 0
    | _ => (firstNmi ds).map (· + 1)

/-- The first device that asserts a maskable request, and its payload (R512). -/
def firstInt : List IODev → Option (Nat × Byte × List Byte)
  | [] => none
  | d :: ds =>
    match d.irq with
    | some (.int first rest) => some (0, first, rest)
    | _ => (firstInt ds).map fun l => (l.1 + 1, l.2)

/-- Arbitration: "a non-maskable interrupt immediately wins regardless of mask state; otherwise the first device asserting a
maskable interrupt wins only if maskable interrupts are currently enabled (`iff1`)" (R512). The device's place and its
request, or nothing. -/
def arbitrate (ds : List IODev) (iff1 : Bool) : Option (Nat × Request) :=
  match firstNmi ds with
  | some j => some (j, .nmi)
  | none =>
    if iff1 then (firstInt ds).map fun l => (l.1, .int l.2.1 l.2.2)
    else none

/-- `ack_j()`, "called exactly once, after arbitration and before the first effect of the entry sequence" (R514). -/
def State.ackDev (s : State) (j : Nat) : State := { s with iodevs := s.iodevs.modify j IODev.ack }

/-! ## Entry -/

/-- Mode 0: the payload is decoded "with byte k taken from `bytes[k]` instead of memory"; it must be exactly one instruction,
which is executed with `PC0 = npc = pc` (R518, D18). -/
def executeSupplied (s : State) (payload : List Byte) : Res :=
  match decode payload with
  | .ok i [] => exec i { s with source := .supplied }
  | .ok _ (_ :: _) => .fault (.invalidInstruction payload)
  | .incomplete => .fault (.invalidInstruction payload)
  | .invalid bs => .fault (.invalidInstruction bs)

/-- The entry of an accepted maskable request, "by `x[IM]`: 0 rule R518, 1 rule R517, 2 rule R519" (R516). -/
def enterMaskable (s : State) (first : Byte) (rest : List Byte) : Res :=
  match s.im with
  | .im0 => executeSupplied { s with iff1 := false, iff2 := false } (first :: rest)
  | .im1 => andThen (takeInterrupt .mode1 s) .next
  | .im2 => andThen (takeInterrupt (.mode2 first) s) .next

/-- The acknowledge and the entry of an accepted request (R514 to R519). -/
def enter (s : State) (j : Nat) (q : Request) : Res :=
  match q with
  | .nmi => andThen (takeInterrupt .nmi (s.ackDev j)) .next
  | .int first rest => enterMaskable (s.ackDev j) first rest

/-! ## The step -/

/-- Fetch and execute the instruction at `pc` (R500 (4b)). -/
def fetchExecute (s : State) : Res := andThen (fetch s) fun r => exec r.1 r.2

/-- What a step does once the devices have been ticked: arbitrate, then enter or fetch (R500 (3) and (4)). -/
def afterTick (s : State) : Res :=
  match arbitrate s.iodevs s.iff1 with
  | some (j, q) => enter s j q
  | none => fetchExecute s

/-- One step (R500). -/
def stepOnce (s : State) : Res :=
  if s.halted then .refused .halted else afterTick s.tickAll

/-! ## Placing an instruction for the next fetch -/

/-- The bytes placed at `a`, `a + 1`, ..., wrapping (R25), in the bytes of RAM and ROM only. -/
def Memory.place (m : Memory) (a : Word) : List Byte → Memory
  | [] => m
  | v :: vs => Memory.place (m.write a.toNat v) (a + 1#16) vs

/-- The state with a table word stored where the next step fetches (log entry 18). -/
def State.placeWord (s : State) (nbits w : Nat) : State := { s with mem := s.mem.place s.pc (tableBytes nbits w) }

end Sys2Proof.Machine
end

