-- ==== Sys2Proof/WellFormed.lean ====
section
/-! DEFINITION. What makes terms legal. An `Instr` is legal by its types: R122 leaves one illegal operand value, the register
code 6, and `Reg8` has no constructor for it. What is left to check is a configuration of I/O devices (R84, R85): each
device's claimed ports are a SET, so its list repeats none, and no two devices claim one port. -/

namespace Sys2Proof

/-- Whether a list of ports names no port twice: "a set of 8-bit port numbers" (R84). -/
def portsAreSet : List Port → Bool
  | [] => true
  | p :: ps => !ps.contains p && portsAreSet ps

/-- Whether two port lists have no port in common. -/
def portsApart (ps qs : List Port) : Bool :=
  ps.all fun p => !qs.contains p

/-- Whether "two devices must never claim the same port" holds of the registry (R85), and each device's ports are a set. -/
def iodevsWellFormed : List IODev → Bool
  | [] => true
  | d :: ds => portsAreSet d.ports && ds.all (fun e => portsApart d.ports e.ports) && iodevsWellFormed ds

end Sys2Proof
end

