-- ==== Sys2Proof/Machine/Boot.lean ====
section
/-! DEFINITION. What the host does between steps (R560 to R569): constructing the machine, loading and saving images, the
forced write, reset, and inspecting and writing registers. No instruction reaches any of it. -/

namespace Sys2Proof.Machine

/-- `MemForce(a, v)`: "as rule R67 without the read-only check" (R68, R568). On RAM and ROM it always succeeds and the byte
reads back (R83). DESIGN CHOICE: `a` is a global offset (log entry 27). DESIGN CHOICE for a custom device: it may report an
error (log entry 20), and nothing relates its forced write to its next read (log entry 31). -/
def memForce (s : State) (a : Nat) (v : Byte) : Except Fault State :=
  match resolve s.memdevs a with
  | none => .error (.unmappedAddress a)
  | some l =>
    match l.dev.kind with
    | .ram => .ok { s with mem := s.mem.write a v }
    | .rom => .ok { s with mem := s.mem.write a v }
    | .custom _ id =>
      match Config.memDevForce id l.dev.internal l.offset v with
      | .ok n => .ok (s.setMemInternal l.index n)
      | .error e => .error (.executionError e)

/-- `load` from global offset `i` on: every byte that can be placed is placed; the errors are collected, not raised (R566).
A byte past `TOTAL` is `OutOfBounds` (log entry 20 for a custom device's own error). -/
def loadFrom : (i : Nat) → List Byte → State → List Fault × State
  | _, [], s => ([], s)
  | i, v :: vs, s =>
    match writeAt s i v with
    | .ok s1 => loadFrom (i + 1) vs s1
    | .error (.unmappedAddress _) =>
      let r := loadFrom (i + 1) vs s
      (.outOfBounds i :: r.1, r.2)
    | .error e =>
      let r := loadFrom (i + 1) vs s
      (e :: r.1, r.2)

/-- `load(bytes)`: "writes a byte stream starting at device 0 offset 0"; success is an empty list of errors (R566). -/
def load (bytes : List Byte) (s : State) : List Fault × State := loadFrom 0 bytes s

/-- `count` bytes from global offset `i` on, as the devices read them (R567). -/
def saveFrom : (count i : Nat) → State → Except Fault (List Byte × State)
  | 0, _, s => .ok ([], s)
  | count + 1, i, s =>
    match readAt s i with
    | .error f => .error f
    | .ok (v, s1) =>
      match saveFrom count (i + 1) s1 with
      | .error f => .error f
      | .ok (vs, s2) => .ok (v :: vs, s2)

/-- `save()`: "concatenate every device's full readable contents in order"; exactly `TOTAL` bytes (R567). -/
def save (s : State) : Except Fault (List Byte × State) := saveFrom (totalSize s.memdevs) 0 s

/-- The bank an unspecified reset leaves: eight free values from the `n`-th on (R53, U5). -/
def Regs.unspecified (n : Nat) : Regs :=
  ⟨Config.freeByte n, Config.freeByte (n + 1), Config.freeByte (n + 2), Config.freeByte (n + 3),
    Config.freeByte (n + 4), Config.freeByte (n + 5), Config.freeByte (n + 6), Config.freeByte (n + 7)⟩

/-- The word an unspecified reset leaves in `IX`, `IY` or `SP`: two free bytes. -/
def unspecifiedWord (n : Nat) : Word := wordOf (Config.freeByte n) (Config.freeByte (n + 1))

/-- Reset of the CPU (R53, R560): every register zero; memory and devices stay (R561). With `RESET_GPR_UNSPECIFIED` set, the
general registers, both banks, `IX`, `IY` and `SP` take free values instead (R53, D13, U5; log entry 16). -/
def cpuReset (gprUnspecified : Bool) (s : State) : State :=
  let z : State := { State.reset with mem := s.mem, memdevs := s.memdevs, iodevs := s.iodevs, free := s.free }
  if gprUnspecified then
    { z with
      main := Regs.unspecified s.free
      alt := Regs.unspecified (s.free + 8)
      ix := unspecifiedWord (s.free + 16)
      iy := unspecifiedWord (s.free + 18)
      sp := unspecifiedWord (s.free + 20)
      free := s.free + 22 }
  else z

/-- Construction (R565): the devices are registered, `IMAGE` is loaded, the CPU is reset; the errors of the load, and the
machine. "conflicting ports are a construction-time error": then no machine exists (R85, U8). `mem` is the devices' initial
content. -/
def construct (gprUnspecified : Bool) (memdevs : List MemDev) (mem : Memory) (iodevs : List IODev) (image : List Byte) :
    Option (List Fault × State) :=
  if iodevsWellFormed iodevs then
    let r := load image { State.reset with mem := mem, memdevs := memdevs, iodevs := iodevs }
    some (r.1, cpuReset gprUnspecified r.2)
  else none

/-! ## Registers, inspected and written between steps (R569) -/

/-- The two banks (R22). -/
inductive Bank where
  | main
  | alt
deriving DecidableEq, Repr

/-- The eight byte registers of a bank (R20, R22). -/
inductive BankReg where
  | a | f | b | c | d | e | h | l
deriving DecidableEq, Repr

/-- The 8-bit registers R9 names: `A F B C D E H L`, `A' F' B' C' D' E' H' L'`, `I`, `R`. -/
inductive ByteReg where
  | bank (k : Bank) (r : BankReg)
  | i
  | r
deriving DecidableEq, Repr

/-- The 16-bit registers R9 names: `AF BC DE HL`, `AF' BC' DE' HL'`, `IX`, `IY`, `SP`, `PC`. -/
inductive WordReg where
  | pair (k : Bank) (p : StackPair)
  | ix
  | iy
  | sp
  | pc
deriving DecidableEq, Repr

/-- A register of a bank, read (R20). -/
def Regs.byte (g : Regs) : BankReg → Byte
  | .a => g.a
  | .f => g.f
  | .b => g.b
  | .c => g.c
  | .d => g.d
  | .e => g.e
  | .h => g.h
  | .l => g.l

/-- A register of a bank, written (R20). -/
def Regs.setByte (g : Regs) (r : BankReg) (v : Byte) : Regs :=
  match r with
  | .a => { g with a := v }
  | .f => { g with f := v }
  | .b => { g with b := v }
  | .c => { g with c := v }
  | .d => { g with d := v }
  | .e => { g with e := v }
  | .h => { g with h := v }
  | .l => { g with l := v }

/-- A pair of a bank, read (R21). -/
def Regs.word (g : Regs) : StackPair → Word
  | .bc => g.bc
  | .de => g.de
  | .hl => g.hl
  | .af => g.af

/-- A pair of a bank, written: both halves (R21). -/
def Regs.setWord (g : Regs) (p : StackPair) (v : Word) : Regs :=
  match p with
  | .bc => g.setBC v
  | .de => g.setDE v
  | .hl => g.setHL v
  | .af => g.setAF v

/-- The bank of that name (R22). -/
def State.bank (s : State) : Bank → Regs
  | .main => s.main
  | .alt => s.alt

/-- The state with that bank replaced (R22). -/
def State.setBank (s : State) (k : Bank) (g : Regs) : State :=
  match k with
  | .main => { s with main := g }
  | .alt => { s with alt := g }

/-- Inspection of an 8-bit register: the "read-only snapshot of every named register" (R569). -/
def State.byteReg (s : State) : ByteReg → Byte
  | .bank k r => (s.bank k).byte r
  | .i => s.i
  | .r => s.r

/-- Inspection of a 16-bit register, "plus PC" (R569). -/
def State.wordReg (s : State) : WordReg → Word
  | .pair k p => (s.bank k).word p
  | .ix => s.ix
  | .iy => s.iy
  | .sp => s.sp
  | .pc => s.pc

/-- A write of one register by the host. DEDUCED: `HALTED` has no value here, since the host may set it, and "cleared only by
reset" (R49) and "the only way `HALTED` returns to 0" (R560) leave it no write that clears it (log entry 30). -/
inductive RegWrite where
  | byte (n : ByteReg) (v : Byte)
  | word (n : WordReg) (v : Word)
  | iff1 (v : Bool)
  | iff2 (v : Bool)
  | im (m : IntMode)
  | halted
deriving DecidableEq, Repr

/-- `x[N] <- v` on an 8-bit register. -/
def State.setByteReg (s : State) (n : ByteReg) (v : Byte) : State :=
  match n with
  | .bank k r => s.setBank k ((s.bank k).setByte r v)
  | .i => { s with i := v }
  | .r => { s with r := v }

/-- `x[N] <- v` on a 16-bit register. -/
def State.setWordReg (s : State) (n : WordReg) (v : Word) : State :=
  match n with
  | .pair k p => s.setBank k ((s.bank k).setWord p v)
  | .ix => { s with ix := v }
  | .iy => { s with iy := v }
  | .sp => { s with sp := v }
  | .pc => { s with pc := v }

/-- The host's register write: it may "set any register between steps" (R569, the spec's decision D13; log entry 30). -/
def State.setRegister (s : State) : RegWrite → State
  | .byte n v => s.setByteReg n v
  | .word n v => s.setWordReg n v
  | .iff1 v => { s with iff1 := v }
  | .iff2 v => { s with iff2 := v }
  | .im m => { s with im := m }
  | .halted => { s with halted := true }

/-! ## The host's operations between steps -/

/-- What the host can do to a machine between two steps (R560, R566 to R569). `memRead`, `memWrite` and `force` are the
`MemRead`, `MemWrite` and `MemForce` of R568; DESIGN CHOICE: they take a global offset (log entry 27). Construction makes a
machine and is not here. -/
inductive HostOp where
  | write (w : RegWrite)
  | load (bytes : List Byte)
  | save
  | memRead (a : Nat)
  | memWrite (a : Nat) (v : Byte)
  | force (a : Nat) (v : Byte)
  | reset (gprUnspecified : Bool)
deriving DecidableEq, Repr

/-- One host operation: the machine after it, or the fault it reports. `load` reports its errors in a list of its own and
always leaves a machine (R566). `memRead` gives the byte `readAt` answers; here is the machine it leaves, since a custom device's
read may have side effects (R66, R74). A failed access changes nothing (log entry 4). -/
def hostOp (s : State) : HostOp → Except Fault State
  | .write w => .ok (s.setRegister w)
  | .load bytes => .ok (load bytes s).2
  | .save => (save s).map Prod.snd
  | .memRead a => (readAt s a).map Prod.snd
  | .memWrite a v => writeAt s a v
  | .force a v => memForce s a v
  | .reset gprUnspecified => .ok (cpuReset gprUnspecified s)

end Sys2Proof.Machine
end

