-- ==== Sys2Proof/Safety.lean ====
section
/-! DEFINITION. What counts as a good state and a good run, in the terms the statements use. -/

namespace Sys2Proof.Machine

/-- Whether a device's bytes are the machine's memory (RAM and ROM), not the device's own business (R61). -/
def plainKind : MemKind → Bool
  | .ram => true
  | .rom => true
  | .custom _ _ => false

/-- Whether every byte the memory lists lies in a RAM or ROM device. -/
def backed (ds : List MemDev) (m : Memory) : Bool :=
  m.all fun c =>
    match resolve ds c.1 with
    | some l => plainKind l.dev.kind
    | none => false

/-- The invariant of the machine between steps. -/
structure Inv (s : State) : Prop where
  /-- the memory is in its canonical form -/
  memory : s.mem.wf = true
  /-- every listed byte belongs to a RAM or ROM device -/
  backed : backed s.memdevs s.mem = true
  /-- "two devices must never claim the same port" (R85) -/
  ports : iodevsWellFormed s.iodevs = true
  /-- the next instruction comes from memory (log entry 7) -/
  source : s.source = .memory

/-- The byte at an address is one of a RAM or ROM device: reading it has no side effect (R74). -/
def PlainAt (s : State) (a : Word) : Prop :=
  ∃ l, resolve s.memdevs a.toNat = some l ∧ plainKind l.dev.kind = true

/-- The byte at an address is one of a RAM device (R61). -/
def RamAt (s : State) (a : Word) : Prop :=
  ∃ l, resolve s.memdevs a.toNat = some l ∧ l.dev.kind = .ram

/-- The shape of the memory devices: their sizes and kinds, without a custom device's internal state (R6). -/
def memShape (s : State) : List (Nat × MemKind) := s.memdevs.map fun d => (d.size, d.kind)

/-- The ports the I/O devices claim, in registration order (R84). -/
def portShape (s : State) : List (List Port) := s.iodevs.map IODev.ports

/-- `t` is reached from `s` by some steps, none of which stops. -/
inductive Reaches (s : State) : State → Prop where
  | here : Reaches s s
  | next {t u : State} (h : Reaches s t) (hs : step t = .next u) : Reaches s u

/-- `t` is reached from `s` by some steps and some operations of the host between them (R569), none of which stops. -/
inductive ReachesWithHost (s : State) : State → Prop where
  | here : ReachesWithHost s s
  | next {t u : State} (h : ReachesWithHost s t) (hs : step t = .next u) : ReachesWithHost s u
  | host {t u : State} (h : ReachesWithHost s t) (o : HostOp) (ho : hostOp t o = .ok u) : ReachesWithHost s u

/-- A run from `s` never ends in a fault: it goes on, or it ends in the halted refusal. -/
def NeverFaults (s : State) : Prop := ∀ t, Reaches s t → ∀ f, step t ≠ .fault f

/-- The twelve instructions that access a port (R50). -/
def usesPorts (i : Instr) : Bool :=
  match i with
  | .inAImm _ => true
  | .inRegC _ => true
  | .ini => true
  | .inir => true
  | .ind => true
  | .indr => true
  | .outImmA _ => true
  | .outCReg _ => true
  | .outi => true
  | .otir => true
  | .outd => true
  | .otdr => true
  | _ => false

/-- The seven instructions that write `IX` (R232, R236, R249, R264, R363, R366, R369). -/
def writesIX (i : Instr) : Bool :=
  match i with
  | .ldIXImm _ => true
  | .ldIXIndNN _ => true
  | .popIX => true
  | .exIndSPIX => true
  | .addIXPair _ => true
  | .incIX => true
  | .decIX => true
  | _ => false

/-- The seven instructions that write `IY` (R233, R237, R250, R265, R364, R367, R370). -/
def writesIY (i : Instr) : Bool :=
  match i with
  | .ldIYImm _ => true
  | .ldIYIndNN _ => true
  | .popIY => true
  | .exIndSPIY => true
  | .addIYPair _ => true
  | .incIY => true
  | .decIY => true
  | _ => false

/-! ## Words of the statements

What the statements are written in, defined here from the rules a second time and without the model's own flag, refresh and
address functions, so that a slip in one of those shows. -/

/-- `F` from its eight bits, by their weights (R27). -/
def flagByte (s z y h x pv n c : Bool) : Byte :=
  BitVec.ofNat 8 (128 * s.toNat + 64 * z.toNat + 32 * y.toNat + 16 * h.toNat + 8 * x.toNat + 4 * pv.toNat
    + 2 * n.toNat + c.toNat)

/-- How many 1 bits a byte has (R30). -/
def ones (v : Byte) : Nat := (List.range 8).countP fun k => v.getLsbD k

/-- "an even number of 1 bits" (R30). -/
def evenOnes (v : Byte) : Bool := decide (ones v % 2 = 0)

/-- The refresh counter after one instruction, as numbers: bit 7 stays, the low seven bits count modulo 128 (R46). -/
def refreshed (r : Byte) : Byte := BitVec.ofNat 8 (r.toNat / 128 * 128 + (r.toNat % 128 + 1) % 128)

/-- `npc`, as numbers (R10, R518). -/
def nextPc (s : State) (len : Nat) : Word :=
  if s.source = .memory then BitVec.ofNat 16 (s.pc.toNat + len) else s.pc

/-- The end of an instruction: `pc` at a target, `R` counted, the next instruction from memory. -/
def State.endedAt (s : State) (target : Word) : State :=
  { s with pc := target, r := refreshed s.r, source := .memory }

/-- `s` with the bytes of memory and the device states of `t`. -/
def State.memOf (s t : State) : State := { s with mem := t.mem, memdevs := t.memdevs }

/-- Between `s` and `t` nothing changed in the interrupt and halt state, in memory, in a device or in a field of the model's
own. -/
def SameButRegisters (s t : State) : Prop :=
  t.iff1 = s.iff1 ∧ t.iff2 = s.iff2 ∧ t.im = s.im ∧ t.halted = s.halted ∧ t.source = s.source ∧ t.free = s.free
    ∧ t.mem = s.mem ∧ t.memdevs = s.memdevs ∧ t.iodevs = s.iodevs

/-- Between `s` and `t` no byte of memory but the one at `a` changed, and a RAM byte there now reads `v`. -/
def StoredByte (s t : State) (a : Word) (v : Byte) : Prop :=
  (∀ k, k ≠ a.toNat → t.mem.read k = s.mem.read k) ∧ (s.mem.wf = true → RamAt s a → t.mem.read a.toNat = v)

/-- Between `s` and `t` no byte of memory but those at `a` and `a + 1` changed, and RAM bytes there now read `v`, low byte
first (R71). -/
def StoredWord (s t : State) (a v : Word) : Prop :=
  (∀ k, k ≠ a.toNat → k ≠ (a + 1#16).toNat → t.mem.read k = s.mem.read k)
    ∧ (s.mem.wf = true → RamAt s a → RamAt s (a + 1#16) →
        t.mem.read a.toNat = v.extractLsb' 0 8 ∧ t.mem.read (a + 1#16).toNat = v.extractLsb' 8 8)

/-- The memory operands of the 8-bit instructions. -/
inductive MemForm where
  | indHL
  | indIX (d : Byte)
  | indIY (d : Byte)
deriving DecidableEq, Repr

/-- The address of a memory operand: `x[HL]`, or the effective address of R116. -/
def MemForm.addr (s : State) : MemForm → Word
  | .indHL => s.hl
  | .indIX d => s.ea .ix d
  | .indIY d => s.ea .iy d

/-- The bytes a memory form has beyond the `(HL)` form: prefix and displacement (R105, R106). -/
def MemForm.extra : MemForm → Nat
  | .indHL => 0
  | .indIX _ => 2
  | .indIY _ => 2

/-- The source operands of the 8-bit arithmetic and logic instructions (R119). -/
inductive Form8 where
  | reg (r : Reg8)
  | imm (n : Byte)
  | mem (m : MemForm)
deriving DecidableEq, Repr

/-- Reading a source operand. -/
def Form8.read (s : State) : Form8 → Except Fault (Byte × State)
  | .reg r => .ok (s.main.get r, s)
  | .imm n => .ok (n, s)
  | .mem m => readByte s (m.addr s)

/-- The length of an 8-bit arithmetic or logic instruction with this operand (R107). -/
def Form8.length : Form8 → Nat
  | .reg _ => 1
  | .imm _ => 2
  | .mem m => 1 + m.extra

/-- The eight operations of R119. -/
inductive AluOp where
  | add
  | adc
  | sub
  | sbc
  | and
  | xor
  | or
  | cp
deriving DecidableEq, Repr

/-- The instruction of an operation and an operand form: the 40 forms of R280 to R319. -/
def AluOp.instr : AluOp → Form8 → Instr
  | .add, .reg r => .addReg r
  | .add, .imm n => .addImm n
  | .add, .mem .indHL => .addIndHL
  | .add, .mem (.indIX d) => .addIndIX d
  | .add, .mem (.indIY d) => .addIndIY d
  | .adc, .reg r => .adcReg r
  | .adc, .imm n => .adcImm n
  | .adc, .mem .indHL => .adcIndHL
  | .adc, .mem (.indIX d) => .adcIndIX d
  | .adc, .mem (.indIY d) => .adcIndIY d
  | .sub, .reg r => .subReg r
  | .sub, .imm n => .subImm n
  | .sub, .mem .indHL => .subIndHL
  | .sub, .mem (.indIX d) => .subIndIX d
  | .sub, .mem (.indIY d) => .subIndIY d
  | .sbc, .reg r => .sbcReg r
  | .sbc, .imm n => .sbcImm n
  | .sbc, .mem .indHL => .sbcIndHL
  | .sbc, .mem (.indIX d) => .sbcIndIX d
  | .sbc, .mem (.indIY d) => .sbcIndIY d
  | .and, .reg r => .andReg r
  | .and, .imm n => .andImm n
  | .and, .mem .indHL => .andIndHL
  | .and, .mem (.indIX d) => .andIndIX d
  | .and, .mem (.indIY d) => .andIndIY d
  | .xor, .reg r => .xorReg r
  | .xor, .imm n => .xorImm n
  | .xor, .mem .indHL => .xorIndHL
  | .xor, .mem (.indIX d) => .xorIndIX d
  | .xor, .mem (.indIY d) => .xorIndIY d
  | .or, .reg r => .orReg r
  | .or, .imm n => .orImm n
  | .or, .mem .indHL => .orIndHL
  | .or, .mem (.indIX d) => .orIndIX d
  | .or, .mem (.indIY d) => .orIndIY d
  | .cp, .reg r => .cpReg r
  | .cp, .imm n => .cpImm n
  | .cp, .mem .indHL => .cpIndHL
  | .cp, .mem (.indIX d) => .cpIndIX d
  | .cp, .mem (.indIY d) => .cpIndIY d

/-- The seven rotates and shifts of R119 that the documented set has. -/
inductive ShiftOp where
  | rlc
  | rrc
  | rl
  | rr
  | sla
  | sra
  | srl
deriving DecidableEq, Repr

/-- The rotate or shift of a register: R384, R388, R392, R396, R400, R404, R408. -/
def ShiftOp.onReg (r : Reg8) : ShiftOp → Instr
  | .rlc => .rlcReg r
  | .rrc => .rrcReg r
  | .rl => .rlReg r
  | .rr => .rrReg r
  | .sla => .slaReg r
  | .sra => .sraReg r
  | .srl => .srlReg r

/-- The rotate or shift of a memory operand: the other 21 rules from R385 to R411. -/
def ShiftOp.onMem : ShiftOp → MemForm → Instr
  | .rlc, .indHL => .rlcIndHL
  | .rlc, .indIX d => .rlcIndIX d
  | .rlc, .indIY d => .rlcIndIY d
  | .rrc, .indHL => .rrcIndHL
  | .rrc, .indIX d => .rrcIndIX d
  | .rrc, .indIY d => .rrcIndIY d
  | .rl, .indHL => .rlIndHL
  | .rl, .indIX d => .rlIndIX d
  | .rl, .indIY d => .rlIndIY d
  | .rr, .indHL => .rrIndHL
  | .rr, .indIX d => .rrIndIX d
  | .rr, .indIY d => .rrIndIY d
  | .sla, .indHL => .slaIndHL
  | .sla, .indIX d => .slaIndIX d
  | .sla, .indIY d => .slaIndIY d
  | .sra, .indHL => .sraIndHL
  | .sra, .indIX d => .sraIndIX d
  | .sra, .indIY d => .sraIndIY d
  | .srl, .indHL => .srlIndHL
  | .srl, .indIX d => .srlIndIX d
  | .srl, .indIY d => .srlIndIY d

/-- The result of a rotate or shift and the bit shifted out, as numbers (R40). -/
def ShiftOp.result (v : Byte) (cin : Bool) : ShiftOp → Byte × Bool
  | .rlc => (BitVec.ofNat 8 (v.toNat * 2 + v.toNat / 128), v.getLsbD 7)
  | .rrc => (BitVec.ofNat 8 (v.toNat / 2 + 128 * (v.toNat % 2)), v.getLsbD 0)
  | .rl => (BitVec.ofNat 8 (v.toNat * 2 + cin.toNat), v.getLsbD 7)
  | .rr => (BitVec.ofNat 8 (v.toNat / 2 + 128 * cin.toNat), v.getLsbD 0)
  | .sla => (BitVec.ofNat 8 (v.toNat * 2), v.getLsbD 7)
  | .sra => (BitVec.ofNat 8 (v.toNat / 2 + 128 * (v.toNat / 128)), v.getLsbD 0)
  | .srl => (BitVec.ofNat 8 (v.toNat / 2), v.getLsbD 0)

/-- The flags a `CB`-page rotate or shift leaves (R41). -/
def shiftedF (res : Byte × Bool) : Byte :=
  flagByte (res.1.getLsbD 7) (decide (res.1 = 0#8)) (res.1.getLsbD 5) false (res.1.getLsbD 3) (evenOnes res.1) false res.2

/-- Whether a condition code holds of the byte `F` (R42). -/
def holds (f : Byte) : Cond → Bool
  | .nz => !f.getLsbD 6
  | .z => f.getLsbD 6
  | .nc => !f.getLsbD 0
  | .c => f.getLsbD 0
  | .po => !f.getLsbD 2
  | .pe => f.getLsbD 2
  | .p => !f.getLsbD 7
  | .m => f.getLsbD 7

/-- The sum of two bytes and a carry, and the byte `F` it leaves (R32). -/
def sumF (a v : Byte) (c : Bool) : Byte × Byte :=
  let r : Byte := BitVec.ofNat 8 (a.toNat + v.toNat + c.toNat)
  (r, flagByte (r.getLsbD 7) (decide (r = 0#8)) (r.getLsbD 5) (decide (16 ≤ a.toNat % 16 + v.toNat % 16 + c.toNat))
    (r.getLsbD 3) (a.getLsbD 7 == v.getLsbD 7 && r.getLsbD 7 != a.getLsbD 7) false
    (decide (256 ≤ a.toNat + v.toNat + c.toNat)))

/-- The difference of two bytes and a borrow, and the byte `F` it leaves (R33; `H` is the spec's decision D4). -/
def differenceF (a v : Byte) (c : Bool) : Byte × Byte :=
  let r : Byte := BitVec.ofNat 8 (a.toNat + 512 - v.toNat - c.toNat)
  (r, flagByte (r.getLsbD 7) (decide (r = 0#8)) (r.getLsbD 5) (decide (a.toNat % 16 < v.toNat % 16 + c.toNat))
    (r.getLsbD 3) (a.getLsbD 7 != v.getLsbD 7 && r.getLsbD 7 != a.getLsbD 7) true (decide (a.toNat < v.toNat + c.toNat)))

/-- The byte `F` a result `r` leaves whose parity goes to `PV`; `N` is 0 (R34, R412, R420, R471). -/
def parityF (r : Byte) (h c : Bool) : Byte :=
  flagByte (r.getLsbD 7) (decide (r = 0#8)) (r.getLsbD 5) h (r.getLsbD 3) (evenOnes r) false c

/-- `f` with the carry of `g`: `INC` and `DEC` keep `C` (R35, R36). -/
def keepC (f g : Byte) : Byte := BitVec.ofNat 8 (f.toNat / 2 * 2 + g.toNat % 2)

/-- The sum of two words, and the byte `F` it leaves of `f` (R37; `Y` and `X` are the spec's decision D3). -/
def addWordF (f : Byte) (a b : Word) : Word × Byte :=
  let r : Word := BitVec.ofNat 16 (a.toNat + b.toNat)
  (r, flagByte (f.getLsbD 7) (f.getLsbD 6) (r.getLsbD 13) (decide (4096 ≤ a.toNat % 4096 + b.toNat % 4096))
    (r.getLsbD 11) (f.getLsbD 2) false (decide (65536 ≤ a.toNat + b.toNat)))

/-- The sum of two words and a carry, and the byte `F` it leaves (R38; D3). -/
def adcWordF (a b : Word) (c : Bool) : Word × Byte :=
  let r : Word := BitVec.ofNat 16 (a.toNat + b.toNat + c.toNat)
  (r, flagByte (r.getLsbD 15) (decide (r = 0#16)) (r.getLsbD 13)
    (decide (4096 ≤ a.toNat % 4096 + b.toNat % 4096 + c.toNat)) (r.getLsbD 11)
    (a.getLsbD 15 == b.getLsbD 15 && r.getLsbD 15 != a.getLsbD 15) false (decide (65536 ≤ a.toNat + b.toNat + c.toNat)))

/-- The difference of two words and a borrow, and the byte `F` it leaves (R39; D3, D4). -/
def sbcWordF (a b : Word) (c : Bool) : Word × Byte :=
  let r : Word := BitVec.ofNat 16 (a.toNat + 131072 - b.toNat - c.toNat)
  (r, flagByte (r.getLsbD 15) (decide (r = 0#16)) (r.getLsbD 13) (decide (a.toNat % 4096 < b.toNat % 4096 + c.toNat))
    (r.getLsbD 11) (a.getLsbD 15 != b.getLsbD 15 && r.getLsbD 15 != a.getLsbD 15) true
    (decide (a.toNat < b.toNat + c.toNat)))

/-- The sum `A` is adjusted to, and the byte `F` left (R43; the spec's decision D27). -/
def adjusted (f a : Byte) : Byte × Byte :=
  let low := if f.getLsbD 4 = true ∨ 9 < a.toNat % 16 then 6 else 0
  let cout := f.getLsbD 0 || decide (0x99 < a.toNat)
  let corr := if cout then low + 0x60 else low
  let r : Byte := BitVec.ofNat 8 (if f.getLsbD 1 then a.toNat + 256 - corr else a.toNat + corr)
  (r, flagByte (r.getLsbD 7) (decide (r = 0#8)) (r.getLsbD 5) (a.getLsbD 4 != r.getLsbD 4) (r.getLsbD 3) (evenOnes r)
    (f.getLsbD 1) cout)

/-- The address a taken relative jump of length 2 goes to, as signed numbers (R118). -/
def relative (s : State) (e : Byte) : Word := BitVec.ofInt 16 ((nextPc s 2).toNat + e.toInt)

/-! ## Shapes of the statements

What an instruction of each shape does, completely: the state it answers when its accesses succeed, and the fault it answers
when one fails. Whatever field such a state does not name is unchanged. -/

/-- The instruction takes one byte from the access `rd`, and its only effect is the main bank `res v` (beside the state of the
device read, `pc` and `R`). No byte of memory changes. -/
def TakesByte (i : Instr) (s : State) (rd : Except Fault (Byte × State)) (len : Nat) (res : Byte → Regs) : Prop :=
  (∀ v s1, rd = .ok (v, s1) →
    exec i s
      = .next (({ s with main := res v, memdevs := s1.memdevs, iodevs := s1.iodevs } : State).endedAt (nextPc s len)))
  ∧ ∀ f, rd = .error f → exec i s = .fault f

/-- The instruction writes `v` at `a`; no other byte of memory and no register but `pc` and `R` changes. -/
def StoresByte (i : Instr) (s : State) (a : Word) (v : Byte) (len : Nat) : Prop :=
  (∀ t, writeByte s a v = .ok t → exec i s = .next ((s.memOf t).endedAt (nextPc s len)) ∧ StoredByte s t a v)
  ∧ ∀ f, writeByte s a v = .error f → exec i s = .fault f

/-- The instruction reads the byte `v` at `a`, writes `(res v).1` there and sets the main bank to `(res v).2`; no other byte of
memory changes. -/
def ModifiesByte (i : Instr) (s : State) (a : Word) (len : Nat) (res : Byte → Byte × Regs) : Prop :=
  (∀ v s1 s2, readByte s a = .ok (v, s1) → writeByte s1 a (res v).1 = .ok s2 →
    exec i s = .next ((({ s with main := (res v).2 } : State).memOf s2).endedAt (nextPc s len))
      ∧ StoredByte s s2 a (res v).1)
  ∧ (∀ f, readByte s a = .error f → exec i s = .fault f)
  ∧ ∀ v s1 f, readByte s a = .ok (v, s1) → writeByte s1 a (res v).1 = .error f → exec i s = .fault f

/-- The instruction reads the word `v` at `a`, low byte first, and `dest v` says where it goes; no byte of memory changes. -/
def LoadsWord (i : Instr) (s : State) (a : Word) (len : Nat) (dest : Word → State → State) : Prop :=
  (∀ v s1, readWord s a = .ok (v, s1) →
    exec i s = .next ((dest v { s with memdevs := s1.memdevs }).endedAt (nextPc s len)))
  ∧ ∀ f, readWord s a = .error f → exec i s = .fault f

/-- The instruction writes the word `v` at `a`, low byte first, and leaves `SP` at `sp`; it goes on at `target`. No other byte
of memory and no other register but `R` changes. -/
def StoresWord (i : Instr) (s : State) (a v sp target : Word) : Prop :=
  (∀ t, writeWord s a v = .ok t →
    exec i s = .next ((({ s with sp := sp } : State).memOf t).endedAt target) ∧ StoredWord s t a v)
  ∧ ∀ f, writeWord s a v = .error f → exec i s = .fault f

/-- The instruction pops the word at `SP` into `pc` and leaves `IFF1` at `iff1`; nothing else but `SP` and `R` changes. -/
def ReturnsTo (i : Instr) (s : State) (iff1 : Bool) : Prop :=
  (∀ v s1, readWord s s.sp = .ok (v, s1) →
    exec i s
      = .next (({ s with sp := s.sp + 2#16, iff1 := iff1, memdevs := s1.memdevs } : State).endedAt v))
  ∧ ∀ f, readWord s s.sp = .error f → exec i s = .fault f

/-- The instruction exchanges the word at `SP` with `v`: both bytes are read, then both written; `dest` takes the word read. -/
def ExchangesTop (i : Instr) (s : State) (v : Word) (len : Nat) (dest : Word → State → State) : Prop :=
  (∀ w s1 s2, readWord s s.sp = .ok (w, s1) → writeWord s1 s.sp v = .ok s2 →
    exec i s = .next ((dest w (s.memOf s2)).endedAt (nextPc s len)) ∧ StoredWord s s2 s.sp v)
  ∧ (∀ f, readWord s s.sp = .error f → exec i s = .fault f)
  ∧ ∀ w s1 f, readWord s s.sp = .ok (w, s1) → writeWord s1 s.sp v = .error f → exec i s = .fault f

/-- The bytes `vs` are what successive byte reads from `a` on give, each made once, in ascending order (R82); `t` is the state
after them. -/
def ReadsInOrder (s : State) (a : Word) : List Byte → State → Prop
  | [], t => t = s
  | v :: vs, t => ∃ s1, readByte s a = .ok (v, s1) ∧ ReadsInOrder s1 (a + 1#16) vs t

end Sys2Proof.Machine
end

