-- ==== Sys2Proof/Certificates/Slice0/Obligations.lean ====
section
/-! DEFINITION. The statements for the provers. Each says which rules of the spec it formalises; a clause that rests on one of
the spec's own decisions names it. The vocabulary is that of Safety.lean. -/

open Sys2Proof Sys2Proof.Machine

/-- O1. For every instruction, with every operand value its encoding admits, and every list of bytes after it, the decoder
reads exactly that instruction from its encoding and leaves the bytes after it (the byte round trip of R133). -/
def Obligations.DecodeInvertsEncode : Prop :=
  ∀ (i : Instr) (rest : List Byte), decode (encode i ++ rest) = .ok i rest

/-- O2. Whenever the decoder reads an instruction from a list of bytes, the bytes it took are the encoding of that
instruction and the rest is what it left. So decoding is injective and no byte sequence outside the encodings is
admitted (R121, R133). -/
def Obligations.EncodeInvertsDecode : Prop :=
  ∀ (bs : List Byte) (i : Instr) (rest : List Byte), decode bs = .ok i rest → encode i ++ rest = bs

/-- O3. When the decoder refuses, it names the bytes up to and including the one whose lookup failed: the first 2 bytes of
the list, or the first 4 when the list starts DD CB or FD CB; every shorter beginning of the list is incomplete; and
the named bytes are refused whatever follows them (R120; what is empty is the spec's decision D1). -/
def Obligations.RefusedBytesAreNamed : Prop :=
  ∀ (bs seen : List Byte), decode bs = .invalid seen →
    seen <+: bs
    ∧ (seen.length = 2 ∨ seen.length = 4 ∧ ((seen.take 2 = [0xDD, 0xCB]) ∨ (seen.take 2 = [0xFD, 0xCB])))
    ∧ (∀ k, k < seen.length → decode (bs.take k) = .incomplete)
    ∧ ∀ rest, decode (seen ++ rest) = .invalid seen

/-- O4. The byte sequences of R135 decode as it says: 00, 3E 42, CB 7E, DD 7E 05, FD CB FE C6 and ED B0 to their
instructions, and DD 7C, CB 31, ED 70 and DD CB 05 00 to InvalidInstruction. -/
def Obligations.SampleWordsDecode : Prop :=
  decode [0x00] = .ok .nop []
  ∧ decode [0x3E, 0x42] = .ok (.ldRegImm .a 0x42) []
  ∧ decode [0xCB, 0x7E] = .ok (.bitIndHL 7) []
  ∧ decode [0xDD, 0x7E, 0x05] = .ok (.ldRegIndIX .a 0x05) []
  ∧ decode [0xFD, 0xCB, 0xFE, 0xC6] = .ok (.setIndIY 0 0xFE) []
  ∧ decode [0xED, 0xB0] = .ok .ldir []
  ∧ decode [0xDD, 0x7C] = .invalid [0xDD, 0x7C]
  ∧ decode [0xCB, 0x31] = .invalid [0xCB, 0x31]
  ∧ decode [0xED, 0x70] = .invalid [0xED, 0x70]
  ∧ decode [0xDD, 0xCB, 0x05, 0x00] = .invalid [0xDD, 0xCB, 0x05, 0x00]

/-- O5. BC, DE, HL and AF read as 256 times the first-named half plus the second; writing a pair writes its halves and no
other register; the effective address of an indexed operand is the index register plus the displacement read as a
two's-complement number, modulo 65536, for IX and for IY, for every value of both. It is computed from the state and
changes nothing. -/
def Obligations.PairsAndEffectiveAddresses : Prop :=
  (∀ g : Regs, g.bc.toNat = 256 * g.b.toNat + g.c.toNat ∧ g.de.toNat = 256 * g.d.toNat + g.e.toNat
    ∧ g.hl.toNat = 256 * g.h.toNat + g.l.toNat ∧ g.af.toNat = 256 * g.a.toNat + g.f.toNat)
  ∧ (∀ (g : Regs) (v : Word),
    g.setBC v = { g with b := v.extractLsb' 8 8, c := v.extractLsb' 0 8 }
    ∧ g.setDE v = { g with d := v.extractLsb' 8 8, e := v.extractLsb' 0 8 }
    ∧ g.setHL v = { g with h := v.extractLsb' 8 8, l := v.extractLsb' 0 8 }
    ∧ g.setAF v = { g with a := v.extractLsb' 8 8, f := v.extractLsb' 0 8 })
  ∧ ∀ (s : State) (d : Byte),
    s.ea .ix d = BitVec.ofInt 16 ((s.ix.toNat : Int) + d.toInt)
    ∧ s.ea .iy d = BitVec.ofInt 16 ((s.iy.toNat : Int) + d.toInt)

/-- O6. Parity is 1 for an even number of 1 bits; each of the eight condition codes tests the bit of F that R42 names;
each of the seven rotate and shift functions gives the result and the bit shifted out that R40 gives, for every byte
and carry (R30, R40, R42; that F holds Z, C, PV and S in bits 6, 0, 2 and 7 is R27, the spec's decision D2, log entry
12). -/
def Obligations.ParityConditionsAndRotates : Prop :=
  (∀ v : Byte, parity v = evenOnes v)
  ∧ (∀ (f : Byte) (cc : Cond), (Flags.ofByte f).cond cc = holds f cc)
  ∧ ∀ (v : Byte) (cin : Bool),
    rlc v = ShiftOp.rlc.result v cin ∧ rrc v = ShiftOp.rrc.result v cin ∧ rl v cin = ShiftOp.rl.result v cin
    ∧ rr v cin = ShiftOp.rr.result v cin ∧ sla v = ShiftOp.sla.result v cin ∧ sra v = ShiftOp.sra.result v cin
    ∧ srl v = ShiftOp.srl.result v cin

/-- O7. Device k answers the addresses from the sum of the sizes before it to that sum plus its own size, at the local
offset from that base; resolution finds exactly that device and offset, so a zero-size device is never returned; it
fails exactly at and past the sum of all sizes. -/
def Obligations.ResolutionFollowsPlacement : Prop :=
  ∀ (ds : List MemDev) (a : Nat),
    (∀ l : Located, resolve ds a = some l ↔
      ds[l.index]? = some l.dev ∧ l.offset < l.dev.size ∧ a = totalSize (ds.take l.index) + l.offset)
    ∧ (resolve ds a = none ↔ totalSize ds ≤ a)

/-- O8. A byte access faults with UnmappedAddress exactly when the address is at or past TOTAL; a read of RAM or ROM gives
the byte there and changes nothing, a read of a custom device is one device read, or ExecutionError with its text; a
write to a read-only device is ReadOnlyWrite, a write to RAM stores the byte (it reads back, and every other byte is
as it was), a write to a custom device is one device write, or ExecutionError (R61, R65 to R67, R74, R89; that a
custom device answers from its id, its own internal state and the local offset, and that an access changes that state
only, is log entry 4, a DESIGN CHOICE; an address here is a global offset, and that the host's accesses reach those
from 65536 on is log entry 27, a DESIGN CHOICE). -/
def Obligations.ByteAccesses : Prop :=
  ∀ (s : State) (a : Nat) (v : Byte),
    (readAt s a = .error (.unmappedAddress a) ↔ totalSize s.memdevs ≤ a)
    ∧ (writeAt s a v = .error (.unmappedAddress a) ↔ totalSize s.memdevs ≤ a)
    ∧ ∀ l : Located, resolve s.memdevs a = some l →
      (plainKind l.dev.kind = true → readAt s a = .ok (s.mem.read a, s))
      ∧ (l.dev.readonly = true → writeAt s a v = .error (.readOnlyWrite a))
      ∧ (l.dev.kind = .ram → ∃ t, writeAt s a v = .ok t ∧ t = { s with mem := t.mem }
          ∧ (∀ k, k ≠ a → t.mem.read k = s.mem.read k)
          ∧ (s.mem.wf = true → t.mem.wf = true ∧ t.mem.read a = v ∧ readAt t a = .ok (v, t)))
      ∧ ∀ ro id, l.dev.kind = .custom ro id →
        (∀ w n, Config.memDevRead id l.dev.internal l.offset = .ok (w, n) →
          readAt s a = .ok (w, { s with memdevs := s.memdevs.set l.index { l.dev with internal := n } }))
        ∧ (∀ e, Config.memDevRead id l.dev.internal l.offset = .error e → readAt s a = .error (.executionError e))
        ∧ (ro = false → ∀ n, Config.memDevWrite id l.dev.internal l.offset v = .ok n →
          writeAt s a v = .ok { s with memdevs := s.memdevs.set l.index { l.dev with internal := n } })
        ∧ (ro = false → ∀ e, Config.memDevWrite id l.dev.internal l.offset v = .error e →
          writeAt s a v = .error (.executionError e))

/-- O9. In a registry where no two devices claim one port: when no device claims port p, reading and writing it are
UnmappedPort; when device k claims it, the access is that device's own, once, and only its state changes, or
ExecutionError with its text (R84 to R87, R89; that a port access changes the state of that device only is log entry
5, a DESIGN CHOICE). -/
def Obligations.PortAccesses : Prop :=
  ∀ (s : State) (p : Port) (v : Byte), iodevsWellFormed s.iodevs = true →
    ((∀ d ∈ s.iodevs, p ∉ d.ports) →
      portRead s p = .error (.unmappedPort p) ∧ portWrite s p v = .error (.unmappedPort p))
    ∧ ∀ (k : Nat) (d : IODev), s.iodevs[k]? = some d → p ∈ d.ports →
      (∀ w e, d.portIn p = .ok (w, e) → portRead s p = .ok (w, { s with iodevs := s.iodevs.set k e }))
      ∧ (∀ e, d.portIn p = .error e → portRead s p = .error (.executionError e))
      ∧ (∀ e, d.portOut p v = .ok e → portWrite s p v = .ok { s with iodevs := s.iodevs.set k e })
      ∧ ∀ e, d.portOut p v = .error e → portWrite s p v = .error (.executionError e)

/-- O10. On RAM and ROM devices, load puts byte i of the image at global offset i where that offset is RAM, leaves every
other byte and everything else of the machine, and reports, in ascending order, OutOfBounds for each offset at or past
TOTAL and ReadOnlyWrite for each offset of a ROM (R566). A custom device's own errors are log entry 20 and not claimed
here. -/
def Obligations.LoadPlacesTheImage : Prop :=
  ∀ (s : State) (bytes : List Byte), s.mem.wf = true → (∀ d ∈ s.memdevs, plainKind d.kind = true) →
    (load bytes s).2 = { s with mem := (load bytes s).2.mem }
    ∧ (load bytes s).2.mem.wf = true
    ∧ (∀ k, (load bytes s).2.mem.read k
        = match bytes[k]?, resolve s.memdevs k with
          | some v, some l => if l.dev.kind = .ram then v else s.mem.read k
          | _, _ => s.mem.read k)
    ∧ (load bytes s).1 = (List.range bytes.length).filterMap fun k =>
        match resolve s.memdevs k with
        | none => some (Fault.outOfBounds k)
        | some l => if l.dev.kind = .rom then some (Fault.readOnlyWrite k) else none

/-- O11. If the machine is not halted, no request is accepted after the ticks, and the bytes at pc, pc + 1, ... (modulo
65536) are RAM or ROM bytes equal to the encoding of instruction i, then the step is exec i of the state with every
I/O device ticked; the meaning itself advances pc and R (R500, R82; the place of the tick is the spec's decision D17). -/
def Obligations.StepRunsTheDecodedInstruction : Prop :=
  ∀ (s : State) (i : Instr), s.halted = false → arbitrate (s.iodevs.map IODev.tick) s.iff1 = none →
    (∀ k v, (encode i)[k]? = some v →
      PlainAt s (s.pc + BitVec.ofNat 16 k) ∧ s.mem.read (s.pc + BitVec.ofNat 16 k).toNat = v) →
    step s = exec i { s with iodevs := s.iodevs.map IODev.tick }

/-- O12. fetch answers instruction i and state t exactly when successive byte reads from pc on, each made once and in
ascending order with the address wrapping, give the encoding of i and leave t; custom devices and their read side
effects included (R82, the spec's decision D21). -/
def Obligations.FetchReadsEachByteOnce : Prop :=
  ∀ (s t : State) (i : Instr), fetch s = .ok (i, t) ↔ ReadsInOrder s s.pc (encode i) t

/-- O13. When the bytes read from pc on are refused by the decoder, fetch and, with no interrupt accepted, the step end in
InvalidInstruction with those bytes; when the bytes read so far are incomplete and the next read fails, they end in
that read's fault (R65, R82, R120, R505; D21, D24). -/
def Obligations.FetchFaults : Prop :=
  ∀ (s : State), s.halted = false → arbitrate (s.iodevs.map IODev.tick) s.iff1 = none →
    (∀ seen t, ReadsInOrder s s.pc seen t → decode seen = .invalid seen →
      fetch s = .error (.invalidInstruction seen) ∧ step s = .fault (.invalidInstruction seen))
    ∧ ∀ seen t f, ReadsInOrder s s.pc seen t → decode seen = .incomplete →
      readByte t (s.pc + BitVec.ofNat 16 seen.length) = .error f → fetch s = .error f ∧ step s = .fault f

/-- O14. For every state, the step answers a refusal exactly when HALTED is 1, and the refusal is then Halted; and no
instruction, whatever the state, is refused (R49, R501, R506; that nothing wakes a halted machine is the spec's
decision D11). -/
def Obligations.OnlyHaltedIsRefused : Prop :=
  (∀ (s : State) (r : Refusal), step s = .refused r ↔ s.halted = true ∧ r = .halted)
  ∧ ∀ (i : Instr) (s : State) (r : Refusal), exec i s ≠ .refused r

/-- O15. Over every registry and both values of IFF1: device j is accepted with NMI exactly when it is the first that
asserts NMI; it is accepted with a maskable request exactly when IFF1 is 1, no device asserts NMI and it is the first
that asserts a maskable request, with that request's payload; nothing is accepted exactly when no device asserts NMI
and either IFF1 is 0 or no device asserts a maskable request. -/
def Obligations.ArbitrationPicksByPriority : Prop :=
  ∀ (ds : List IODev) (iff1 : Bool),
    (∀ j, arbitrate ds iff1 = some (j, .nmi) ↔
      (∃ d, ds[j]? = some d ∧ d.irq = some .nmi)
      ∧ ∀ k d, k < j → ds[k]? = some d → d.irq ≠ some .nmi)
    ∧ (∀ j first rest, arbitrate ds iff1 = some (j, .int first rest) ↔
      iff1 = true ∧ (∀ d ∈ ds, d.irq ≠ some .nmi)
      ∧ (∃ d, ds[j]? = some d ∧ d.irq = some (.int first rest))
      ∧ ∀ k d, k < j → ds[k]? = some d → ∀ a b, d.irq ≠ some (.int a b))
    ∧ (arbitrate ds iff1 = none ↔
      (∀ d ∈ ds, d.irq ≠ some .nmi) ∧ (iff1 = true → ∀ d ∈ ds, ∀ a b, d.irq ≠ some (.int a b)))

/-- O16. When arbitration accepts an NMI of device j, the step acknowledges that device once and no other, copies IFF1
into IFF2, clears IFF1, pushes pc (low byte at the new SP) and goes to 0x0066; R, the flags and every other register
and every other byte of memory are unchanged; a fault of the push is the step's fault (R514, R515, R520; vector and
flip-flops are the spec's decisions D8 and D9). -/
def Obligations.NmiEntry : Prop :=
  ∀ (s : State) (j : Nat), s.halted = false → arbitrate (s.iodevs.map IODev.tick) s.iff1 = some (j, .nmi) →
    (∀ t, writeWord s (s.sp - 2#16) s.pc = .ok t →
      step s = .next { s with
        pc := 0x0066#16, sp := s.sp - 2#16, iff1 := false, iff2 := s.iff1, mem := t.mem, memdevs := t.memdevs,
        iodevs := (s.iodevs.map IODev.tick).modify j IODev.ack }
      ∧ StoredWord s t (s.sp - 2#16) s.pc)
    ∧ ∀ f, writeWord s (s.sp - 2#16) s.pc = .error f → step s = .fault f

/-- O17. When arbitration accepts a maskable request of device j, the step acknowledges that device once and no other,
clears IFF1 and IFF2 and pushes pc; in mode 1 it goes to 0x0038, in mode 2 to the little-endian word at the address
whose high byte is I and low byte the payload's first; nothing else changes; a fault of the push or of the table read
is the step's fault (R514, R516, R517, R519, R520; D7, D8, D9). -/
def Obligations.VectoredEntry : Prop :=
  ∀ (s : State) (j : Nat) (first : Byte) (rest : List Byte), s.halted = false →
    arbitrate (s.iodevs.map IODev.tick) s.iff1 = some (j, .int first rest) →
    (s.im = .im1 → ∀ t, writeWord s (s.sp - 2#16) s.pc = .ok t →
      step s = .next { s with
        pc := 0x0038#16, sp := s.sp - 2#16, iff1 := false, iff2 := false, mem := t.mem, memdevs := t.memdevs,
        iodevs := (s.iodevs.map IODev.tick).modify j IODev.ack }
      ∧ StoredWord s t (s.sp - 2#16) s.pc)
    ∧ (s.im = .im2 → ∀ t v u, writeWord s (s.sp - 2#16) s.pc = .ok t → readWord t (s.i ++ first) = .ok (v, u) →
      step s = .next { s with
        pc := v, sp := s.sp - 2#16, iff1 := false, iff2 := false, mem := t.mem, memdevs := u.memdevs,
        iodevs := (s.iodevs.map IODev.tick).modify j IODev.ack }
      ∧ StoredWord s t (s.sp - 2#16) s.pc)
    ∧ (s.im ≠ .im0 → ∀ f, writeWord s (s.sp - 2#16) s.pc = .error f → step s = .fault f)
    ∧ (s.im = .im2 → ∀ t f, writeWord s (s.sp - 2#16) s.pc = .ok t → readWord t (s.i ++ first) = .error f →
      step s = .fault f)

/-- O18. When arbitration accepts a maskable request of device j in mode 0, the step acknowledges that device, clears both
flip-flops and, if the payload is exactly one instruction, is exec of it with npc equal to pc; if the payload is too
short, has bytes left over or is refused by the decoder, the step is InvalidInstruction (R514, R516, R518, U9; the
spec's decision D18). Two points are the model's choice, not the spec's: that the fault of a short or over-long
payload carries the whole payload (log entry 19, a DESIGN CHOICE), and the field `source` that marks the instruction
as supplied (log entry 7, a DESIGN CHOICE). -/
def Obligations.ModeZeroEntry : Prop :=
  ∀ (s : State) (j : Nat) (first : Byte) (rest : List Byte), s.halted = false → s.im = .im0 →
    arbitrate (s.iodevs.map IODev.tick) s.iff1 = some (j, .int first rest) →
    (∀ i, decode (first :: rest) = .ok i [] →
      ∃ u : State, u = { s with
          iff1 := false, iff2 := false, source := .supplied, iodevs := (s.iodevs.map IODev.tick).modify j IODev.ack }
        ∧ step s = exec i u ∧ ∀ len, nextPc u len = s.pc)
    ∧ (∀ i b bs, decode (first :: rest) = .ok i (b :: bs) → step s = .fault (.invalidInstruction (first :: rest)))
    ∧ (decode (first :: rest) = .incomplete → step s = .fault (.invalidInstruction (first :: rest)))
    ∧ ∀ seen, decode (first :: rest) = .invalid seen → step s = .fault (.invalidInstruction seen)

/-- O19. From every state that meets Inv (memory in canonical form; every listed byte in a RAM or ROM device; no port
claimed twice; the next instruction to come from memory), reachable or not, a step that answers a next state answers
one that meets Inv. -/
def Obligations.InvariantKeptByStep : Prop :=
  ∀ s t : State, Inv s → step s = .next t → Inv t

/-- O20. Inv holds of the state right after reset. -/
def Obligations.InvariantAtReset : Prop :=
  Inv State.reset

/-- O21. However many steps a run takes, from any state, and whatever they execute, every byte of a ROM device reads as at
the start, the memory devices keep their sizes and kinds, and the I/O devices keep their ports (R67, R68, R76). -/
def Obligations.RomNeverChanges : Prop :=
  ∀ s t : State, Reaches s t →
    memShape t = memShape s ∧ portShape t = portShape s
    ∧ ∀ (a : Nat) (l : Located), resolve s.memdevs a = some l → l.dev.kind = .rom → t.mem.read a = s.mem.read a

/-- O22. If all 65536 addresses are RAM, every instruction, with every operand, answers a next state from every state, and
the twelve port instructions do so too when every port is claimed and every I/O device is of the test kind, which
reports no error (the test kind is log entry 6, DEDUCED from the vectors). So nothing but an absent, read-only or
failing device stops an instruction (R501, R502, R503). -/
def Obligations.EveryInstructionCompletes : Prop :=
  ∀ (i : Instr) (s : State), (∀ a : Word, RamAt s a) →
    (usesPorts i = true → (∀ p : Port, ∃ d ∈ s.iodevs, p ∈ d.ports)
      ∧ ∀ d ∈ s.iodevs, ∃ v received q n, d.kind = .test v received q n) →
    ∃ t, exec i s = .next t

/-- O23. For every instruction but EX AF,AF' and EXX: it leaves the alternate bank as it was, and on two states that
differ only in that bank it ends alike: next states that differ only in it, or the same fault (R22). -/
def Obligations.AlternateBankOnlyExchanged : Prop :=
  ∀ (i : Instr) (s : State) (g : Regs), i ≠ .exAFAF → i ≠ .exx →
    (∀ t, exec i s = .next t → t.alt = s.alt ∧ exec i { s with alt := g } = .next { t with alt := g })
    ∧ ∀ f, exec i s = .fault f → exec i { s with alt := g } = .fault f

/-- O24. Whenever an instruction answers a next state: I changes only by LD I,A; IFF1 only by DI, EI and RETN; IFF2 only
by DI and EI; IM only by IM 0, IM 1 and IM 2; HALTED only by HALT, which no instruction undoes; the I/O devices only
by the twelve port instructions; IX only by LD IX,nn, LD IX,(nn), POP IX, EX (SP),IX, ADD IX,pp, INC IX and DEC IX,
and IY only by the same seven on IY; RETI writes none of them (R23, R45, R47, R48, R49, R455; D11, D19). -/
def Obligations.ControlStateWriters : Prop :=
  ∀ (i : Instr) (s t : State), exec i s = .next t →
    (i ≠ .ldIA → t.i = s.i)
    ∧ (i ≠ .di → i ≠ .ei → i ≠ .retn → t.iff1 = s.iff1)
    ∧ (i ≠ .di → i ≠ .ei → t.iff2 = s.iff2)
    ∧ (i ≠ .im0 → i ≠ .im1 → i ≠ .im2 → t.im = s.im)
    ∧ (i ≠ .halt → t.halted = s.halted) ∧ (s.halted = true → t.halted = true)
    ∧ (usesPorts i = false → t.iodevs = s.iodevs)
    ∧ (writesIX i = false → t.ix = s.ix) ∧ (writesIY i = false → t.iy = s.iy)

/-- O25. Whenever an instruction answers a next state, R is what it was, or for LD R,A the value of A, with the low seven
bits one higher modulo 128 and bit 7 kept; whatever the instruction's length or page (R46, R220; the spec's decision
D5). -/
def Obligations.RefreshCountsOnce : Prop :=
  ∀ (i : Instr) (s t : State), exec i s = .next t →
    (i ≠ .ldRA → t.r = refreshed s.r) ∧ (i = .ldRA → t.r = refreshed s.main.a)

/-- O26. From any state, reset leaves every register of both banks, IX, IY, SP, PC, I and R zero, IFF1, IFF2 and HALTED 0
and IM 0, and leaves memory and the devices as they were; on the default configuration it is the reset state (R53,
R560, R561: the values are the spec's decision D13, log entry 2; `source` and `free` are the model's own fields, log
entries 7 and 8). -/
def Obligations.ResetValues : Prop :=
  (∀ s : State, ∃ n, cpuReset false s
    = ⟨Regs.zero, Regs.zero, 0#16, 0#16, 0#16, 0#16, 0#8, 0#8, false, false, .im0, false, .memory, n, s.mem, s.memdevs,
        s.iodevs⟩)
  ∧ Regs.zero = ⟨0#8, 0#8, 0#8, 0#8, 0#8, 0#8, 0#8, 0#8⟩
  ∧ cpuReset false State.reset = State.reset

/-- O27. Each of LD r,r', LD r,n, LD dd,nn, LD IX,nn, LD IY,nn, LD SP,HL, LD SP,IX and LD SP,IY completes from every state
with its destination holding the source and pc at the next instruction; no flag, no other register but R and no byte
of memory changes (R200, R201, R231 to R233, R242 to R244). Constructors: ldRegReg, ldRegImm, ldPairImm, ldIXImm,
ldIYImm, ldSPHL, ldSPIX, ldSPIY. -/
def Obligations.RegisterLoads : Prop :=
  ∀ (s : State) (r q : Reg8) (n : Byte) (dd : Pair) (nn : Word),
    exec (.ldRegReg r q) s = .next (({ s with main := s.main.set r (s.main.get q) } : State).endedAt (nextPc s 1))
    ∧ exec (.ldRegImm r n) s = .next (({ s with main := s.main.set r n } : State).endedAt (nextPc s 2))
    ∧ exec (.ldPairImm dd nn) s = .next ((match dd with
        | .bc => { s with main := { s.main with b := nn.extractLsb' 8 8, c := nn.extractLsb' 0 8 } }
        | .de => { s with main := { s.main with d := nn.extractLsb' 8 8, e := nn.extractLsb' 0 8 } }
        | .hl => { s with main := { s.main with h := nn.extractLsb' 8 8, l := nn.extractLsb' 0 8 } }
        | .sp => { s with sp := nn } : State).endedAt (nextPc s 3))
    ∧ exec (.ldIXImm nn) s = .next (({ s with ix := nn } : State).endedAt (nextPc s 4))
    ∧ exec (.ldIYImm nn) s = .next (({ s with iy := nn } : State).endedAt (nextPc s 4))
    ∧ exec .ldSPHL s = .next (({ s with sp := s.main.h ++ s.main.l } : State).endedAt (nextPc s 1))
    ∧ exec .ldSPIX s = .next (({ s with sp := s.ix } : State).endedAt (nextPc s 2))
    ∧ exec .ldSPIY s = .next (({ s with sp := s.iy } : State).endedAt (nextPc s 2))

/-- O28. Each of the six byte loads reads one byte at its address and completes with its register holding it; no flag, no
other register but pc and R and no byte of memory changes; a fault of the read is the instruction's (R202 to R204,
R211 to R213). Constructors: ldRegIndHL, ldRegIndIX, ldRegIndIY, ldAIndBC, ldAIndDE, ldAIndNN. -/
def Obligations.ByteLoads : Prop :=
  ∀ (s : State) (r : Reg8) (d : Byte) (nn : Word),
    TakesByte (.ldRegIndHL r) s (readByte s s.hl) 1 (s.main.set r)
    ∧ TakesByte (.ldRegIndIX r d) s (readByte s (s.ea .ix d)) 3 (s.main.set r)
    ∧ TakesByte (.ldRegIndIY r d) s (readByte s (s.ea .iy d)) 3 (s.main.set r)
    ∧ TakesByte .ldAIndBC s (readByte s s.main.bc) 1 (fun v => { s.main with a := v })
    ∧ TakesByte .ldAIndDE s (readByte s s.main.de) 1 (fun v => { s.main with a := v })
    ∧ TakesByte (.ldAIndNN nn) s (readByte s nn) 3 (fun v => { s.main with a := v })

/-- O29. Each of the nine byte stores writes its byte at its address and completes; every other byte of memory, every flag
and every register but pc and R is unchanged; a fault of the write is the instruction's (R205 to R210, R214 to R216).
Constructors: ldIndHLReg, ldIndIXReg, ldIndIYReg, ldIndHLImm, ldIndIXImm, ldIndIYImm, ldIndBCA, ldIndDEA, ldIndNNA. -/
def Obligations.ByteStores : Prop :=
  ∀ (s : State) (r : Reg8) (d n : Byte) (nn : Word),
    StoresByte (.ldIndHLReg r) s s.hl (s.main.get r) 1
    ∧ StoresByte (.ldIndIXReg d r) s (s.ea .ix d) (s.main.get r) 3
    ∧ StoresByte (.ldIndIYReg d r) s (s.ea .iy d) (s.main.get r) 3
    ∧ StoresByte (.ldIndHLImm n) s s.hl n 2
    ∧ StoresByte (.ldIndIXImm d n) s (s.ea .ix d) n 4
    ∧ StoresByte (.ldIndIYImm d n) s (s.ea .iy d) n 4
    ∧ StoresByte .ldIndBCA s s.main.bc s.main.a 1
    ∧ StoresByte .ldIndDEA s s.main.de s.main.a 1
    ∧ StoresByte (.ldIndNNA nn) s nn s.main.a 3

/-- O30. LD A,I and LD A,R complete with A holding the register (R before its count) and the flags S Z Y X of it, H and N
0, PV the value of IFF2, C unchanged; LD I,A and LD R,A complete with the register holding A, before R is counted, and
no flag changed; nothing else changes but pc and R (R217 to R220; PV is the spec's decision D29, the order of the
count D5). Constructors: ldAI, ldAR, ldIA, ldRA. -/
def Obligations.InterruptRegisterLoads : Prop :=
  ∀ s : State,
    exec .ldAI s = .next (({ s with main := { s.main with
        a := s.i
        f := flagByte (s.i.getLsbD 7) (decide (s.i = 0#8)) (s.i.getLsbD 5) false (s.i.getLsbD 3) s.iff2 false
          (s.main.f.getLsbD 0) } } : State).endedAt (nextPc s 2))
    ∧ exec .ldAR s = .next (({ s with main := { s.main with
        a := s.r
        f := flagByte (s.r.getLsbD 7) (decide (s.r = 0#8)) (s.r.getLsbD 5) false (s.r.getLsbD 3) s.iff2 false
          (s.main.f.getLsbD 0) } } : State).endedAt (nextPc s 2))
    ∧ exec .ldIA s = .next (({ s with i := s.main.a } : State).endedAt (nextPc s 2))
    ∧ exec .ldRA s = .next (({ s with r := s.main.a } : State).endedAt (nextPc s 2))

/-- O31. Each of the four word loads reads the word at nn, low byte first, and completes with its destination holding it;
no flag, no other register but pc and R and no byte of memory changes; a fault of the read is the instruction's (R234
to R237; the order of the bytes is D15). Constructors: ldHLIndNN, ldPairIndNN, ldIXIndNN, ldIYIndNN. -/
def Obligations.WordLoads : Prop :=
  ∀ (s : State) (dd : Pair) (nn : Word),
    LoadsWord (.ldHLIndNN nn) s nn 3 (fun v u => { u with main := u.main.setHL v })
    ∧ LoadsWord (.ldPairIndNN dd nn) s nn 4 (fun v u => u.setPair dd v)
    ∧ LoadsWord (.ldIXIndNN nn) s nn 4 (fun v u => { u with ix := v })
    ∧ LoadsWord (.ldIYIndNN nn) s nn 4 (fun v u => { u with iy := v })

/-- O32. Each of the four word stores writes its word at nn, low byte first, and completes; every other byte of memory,
every flag and every register but pc and R is unchanged; a fault of a write is the instruction's (R238 to R241; D15).
Constructors: ldIndNNHL, ldIndNNPair, ldIndNNIX, ldIndNNIY. -/
def Obligations.WordStores : Prop :=
  ∀ (s : State) (dd : Pair) (nn : Word),
    StoresWord (.ldIndNNHL nn) s nn s.main.hl s.sp (nextPc s 3)
    ∧ StoresWord (.ldIndNNPair nn dd) s nn (s.pair dd) s.sp (nextPc s 4)
    ∧ StoresWord (.ldIndNNIX nn) s nn s.ix s.sp (nextPc s 4)
    ∧ StoresWord (.ldIndNNIY nn) s nn s.iy s.sp (nextPc s 4)

/-- O33. Each PUSH stores its word at SP - 2 (modulo 65536), low byte at the lower address, leaves SP there and completes;
every other byte of memory, every flag and every register but SP, pc and R is unchanged; a fault of a write is the
instruction's (R230, R245 to R247; the order of the writes is D28). Constructors: pushPair, pushIX, pushIY. -/
def Obligations.Pushes : Prop :=
  ∀ (s : State) (qq : StackPair),
    StoresWord (.pushPair qq) s (s.sp - 2#16) (s.stackPair qq) (s.sp - 2#16) (nextPc s 1)
    ∧ StoresWord .pushIX s (s.sp - 2#16) s.ix (s.sp - 2#16) (nextPc s 2)
    ∧ StoresWord .pushIY s (s.sp - 2#16) s.iy (s.sp - 2#16) (nextPc s 2)

/-- O34. Each POP reads the word at SP, raises SP by two (modulo 65536) and completes with its destination holding the
word, F whole for POP AF; no byte of memory and no other register but pc and R changes, and no flag but by POP AF; a
fault of a read is the instruction's (R230, R248 to R250). Constructors: popPair, popIX, popIY. -/
def Obligations.Pops : Prop :=
  ∀ (s : State) (qq : StackPair),
    LoadsWord (.popPair qq) s s.sp 1 (fun v u => ({ u with sp := u.sp + 2#16 } : State).setStackPair qq v)
    ∧ LoadsWord .popIX s s.sp 2 (fun v u => { u with sp := u.sp + 2#16, ix := v })
    ∧ LoadsWord .popIY s s.sp 2 (fun v u => { u with sp := u.sp + 2#16, iy := v })

/-- O35. The three register exchanges complete from every state with the named registers exchanged whole, F's eight bits
included for EX AF,AF', and nothing else changed but pc and R (R260 to R262). Constructors: exDEHL, exAFAF, exx. -/
def Obligations.RegisterExchanges : Prop :=
  ∀ s : State,
    exec .exDEHL s = .next (({ s with main := { s.main with
        d := s.main.h, e := s.main.l, h := s.main.d, l := s.main.e } } : State).endedAt (nextPc s 1))
    ∧ exec .exAFAF s = .next (({ s with
        main := { s.main with a := s.alt.a, f := s.alt.f }
        alt := { s.alt with a := s.main.a, f := s.main.f } } : State).endedAt (nextPc s 1))
    ∧ exec .exx s = .next (({ s with
        main := ⟨s.main.a, s.main.f, s.alt.b, s.alt.c, s.alt.d, s.alt.e, s.alt.h, s.alt.l⟩
        alt := ⟨s.alt.a, s.alt.f, s.main.b, s.main.c, s.main.d, s.main.e, s.main.h, s.main.l⟩ }
        : State).endedAt (nextPc s 1))

/-- O36. Each of EX (SP),HL, EX (SP),IX and EX (SP),IY reads the word at SP, writes the register's word there and
completes with the register holding the word read; SP, every flag, every other register but pc and R and every other
byte of memory is unchanged; a fault of an access is the instruction's (R263 to R265). Constructors: exIndSPHL,
exIndSPIX, exIndSPIY. -/
def Obligations.StackTopExchanges : Prop :=
  ∀ s : State,
    ExchangesTop .exIndSPHL s s.main.hl 1 (fun v u => { u with main := u.main.setHL v })
    ∧ ExchangesTop .exIndSPIX s s.ix 2 (fun v u => { u with ix := v })
    ∧ ExchangesTop .exIndSPIY s s.iy 2 (fun v u => { u with iy := v })

/-- O37. Each block transfer reads the byte t at HL, writes it at DE, steps HL and DE up (LDI, LDIR) or down (LDD, LDDR)
and lowers BC, all modulo 65536; H and N become 0, PV says whether the new BC is not 0, Y and X are bits 1 and 3 of A
+ t, S Z C are kept; LDIR and LDDR go back to their own address while the new BC is not 0; no other register but R and
no other byte of memory changes; a fault of an access is the instruction's (R266 to R269; X and Y are D3, one
iteration a step D12). Constructors: ldi, ldd, ldir, lddr. -/
def Obligations.BlockTransfers : Prop :=
  ∀ (s : State) (up : Bool),
    (∀ t s1 s2, readByte s s.main.hl = .ok (t, s1) → writeByte s1 s.main.de t = .ok s2 →
      ∀ (bc : Word) (g : Regs), bc = s.main.bc - 1#16 →
        g = { ((s.main.setHL (if up then s.main.hl + 1#16 else s.main.hl - 1#16)).setDE
              (if up then s.main.de + 1#16 else s.main.de - 1#16)).setBC bc with
            f := flagByte (s.main.f.getLsbD 7) (s.main.f.getLsbD 6) ((s.main.a + t).getLsbD 1) false
              ((s.main.a + t).getLsbD 3) (decide (bc ≠ 0#16)) false (s.main.f.getLsbD 0) } →
        exec (if up then .ldi else .ldd) s = .next ((({ s with main := g } : State).memOf s2).endedAt (nextPc s 2))
        ∧ exec (if up then .ldir else .lddr) s
            = .next ((({ s with main := g } : State).memOf s2).endedAt (if bc = 0#16 then nextPc s 2 else s.pc))
        ∧ StoredByte s s2 s.main.de t)
    ∧ (∀ f, readByte s s.main.hl = .error f →
      exec (if up then .ldi else .ldd) s = .fault f ∧ exec (if up then .ldir else .lddr) s = .fault f)
    ∧ ∀ t s1 f, readByte s s.main.hl = .ok (t, s1) → writeByte s1 s.main.de t = .error f →
      exec (if up then .ldi else .ldd) s = .fault f ∧ exec (if up then .ldir else .lddr) s = .fault f

/-- O38. Each block search reads the byte t at HL, compares A with it, steps HL up (CPI, CPIR) or down (CPD, CPDR) and
lowers BC; S Z Y H X N are those of A - t, PV says whether the new BC is not 0, C is kept, A is unchanged; CPIR and
CPDR go back to their own address while the new BC is not 0 and A is not t; no other register but R and no byte of
memory changes; a fault of the read is the instruction's (R270 to R273; D3, D4, D12). Constructors: cpi, cpd, cpir,
cpdr. -/
def Obligations.BlockSearches : Prop :=
  ∀ (s : State) (up : Bool),
    (∀ t s1, readByte s s.main.hl = .ok (t, s1) →
      ∀ (bc : Word) (g : Regs), bc = s.main.bc - 1#16 →
        g = { (s.main.setHL (if up then s.main.hl + 1#16 else s.main.hl - 1#16)).setBC bc with
            f := flagByte ((s.main.a - t).getLsbD 7) (decide (s.main.a = t)) ((s.main.a - t).getLsbD 5)
              (decide (s.main.a.toNat % 16 < t.toNat % 16)) ((s.main.a - t).getLsbD 3) (decide (bc ≠ 0#16)) true
              (s.main.f.getLsbD 0) } →
        exec (if up then .cpi else .cpd) s
            = .next (({ s with main := g, memdevs := s1.memdevs } : State).endedAt (nextPc s 2))
        ∧ exec (if up then .cpir else .cpdr) s
            = .next (({ s with main := g, memdevs := s1.memdevs } : State).endedAt
                (if bc = 0#16 ∨ s.main.a = t then nextPc s 2 else s.pc)))
    ∧ ∀ f, readByte s s.main.hl = .error f →
      exec (if up then .cpi else .cpd) s = .fault f ∧ exec (if up then .cpir else .cpdr) s = .fault f

/-- O39. For every operand form (r, n, (HL), (IX+d), (IY+d)): ADD completes with A the sum of A and the operand, ADC with
the carry added, F whole as R32 gives it; nothing else changes but pc and R; a fault of the operand read is the
instruction's (R280 to R289). Constructors: addReg, addImm, addIndHL, addIndIX, addIndIY, adcReg, adcImm, adcIndHL,
adcIndIX, adcIndIY. -/
def Obligations.Additions : Prop :=
  ∀ (s : State) (form : Form8),
    TakesByte (AluOp.add.instr form) s (form.read s) form.length (fun v =>
      { s.main with a := (sumF s.main.a v false).1, f := (sumF s.main.a v false).2 })
    ∧ TakesByte (AluOp.adc.instr form) s (form.read s) form.length (fun v =>
      { s.main with
        a := (sumF s.main.a v (s.main.f.getLsbD 0)).1, f := (sumF s.main.a v (s.main.f.getLsbD 0)).2 })

/-- O40. For every operand form: SUB completes with A the difference, SBC with the carry subtracted too, CP with A
unchanged, F whole as R33 gives it; nothing else changes but pc and R; a fault of the operand read is the
instruction's (R290 to R299, R315 to R319; H is the spec's decision D4, X and Y of CP D3). Constructors: subReg,
subImm, subIndHL, subIndIX, subIndIY, sbcReg, sbcImm, sbcIndHL, sbcIndIX, sbcIndIY, cpReg, cpImm, cpIndHL, cpIndIX,
cpIndIY. -/
def Obligations.Subtractions : Prop :=
  ∀ (s : State) (form : Form8),
    TakesByte (AluOp.sub.instr form) s (form.read s) form.length (fun v =>
      { s.main with a := (differenceF s.main.a v false).1, f := (differenceF s.main.a v false).2 })
    ∧ TakesByte (AluOp.sbc.instr form) s (form.read s) form.length (fun v =>
      { s.main with
        a := (differenceF s.main.a v (s.main.f.getLsbD 0)).1, f := (differenceF s.main.a v (s.main.f.getLsbD 0)).2 })
    ∧ TakesByte (AluOp.cp.instr form) s (form.read s) form.length (fun v =>
      { s.main with f := (differenceF s.main.a v false).2 })

/-- O41. For every operand form: AND, XOR and OR complete with A the bitwise result, S Z Y X of it, PV its parity, H 1 for
AND and 0 for the others, N and C 0; nothing else changes but pc and R; a fault of the operand read is the
instruction's (R34, R300 to R314). Constructors: andReg, andImm, andIndHL, andIndIX, andIndIY, xorReg, xorImm,
xorIndHL, xorIndIX, xorIndIY, orReg, orImm, orIndHL, orIndIX, orIndIY. -/
def Obligations.LogicalOperations : Prop :=
  ∀ (s : State) (form : Form8),
    TakesByte (AluOp.and.instr form) s (form.read s) form.length (fun v =>
      { s.main with a := s.main.a &&& v, f := parityF (s.main.a &&& v) true false })
    ∧ TakesByte (AluOp.xor.instr form) s (form.read s) form.length (fun v =>
      { s.main with a := s.main.a ^^^ v, f := parityF (s.main.a ^^^ v) false false })
    ∧ TakesByte (AluOp.or.instr form) s (form.read s) form.length (fun v =>
      { s.main with a := s.main.a ||| v, f := parityF (s.main.a ||| v) false false })

/-- O42. INC r and DEC r complete from every state with r one higher or lower modulo 256; INC and DEC of a memory operand
read the byte, write it one higher or lower at the same address and complete; F is as for adding or subtracting 1 but
for C, which is kept; nothing else changes but pc, R and the byte written; a fault of an access is the instruction's
(R35, R36, R320 to R327; H of DEC is D4). Constructors: incReg, decReg, incIndHL, incIndIX, incIndIY, decIndHL,
decIndIX, decIndIY. -/
def Obligations.ByteIncrements : Prop :=
  ∀ (s : State) (r : Reg8) (d : Byte),
    exec (.incReg r) s = .next (({ s with main := { s.main.set r (s.main.get r + 1#8) with
        f := keepC (sumF (s.main.get r) 1#8 false).2 s.main.f } } : State).endedAt (nextPc s 1))
    ∧ exec (.decReg r) s = .next (({ s with main := { s.main.set r (s.main.get r - 1#8) with
        f := keepC (differenceF (s.main.get r) 1#8 false).2 s.main.f } } : State).endedAt (nextPc s 1))
    ∧ (∀ (i : Instr) (a : Word) (len : Nat),
      i = .incIndHL ∧ a = s.hl ∧ len = 1 ∨ i = .incIndIX d ∧ a = s.ea .ix d ∧ len = 3
        ∨ i = .incIndIY d ∧ a = s.ea .iy d ∧ len = 3 →
      ModifiesByte i s a len (fun v => (v + 1#8, { s.main with f := keepC (sumF v 1#8 false).2 s.main.f })))
    ∧ ∀ (i : Instr) (a : Word) (len : Nat),
      i = .decIndHL ∧ a = s.hl ∧ len = 1 ∨ i = .decIndIX d ∧ a = s.ea .ix d ∧ len = 3
        ∨ i = .decIndIY d ∧ a = s.ea .iy d ∧ len = 3 →
      ModifiesByte i s a len (fun v => (v - 1#8, { s.main with f := keepC (differenceF v 1#8 false).2 s.main.f }))

/-- O43. DAA completes with A and F as the algorithm of R43 gives them; CPL with A complemented, H and N 1, Y X of the new
A; NEG with A = 0 - A and the flags of that difference; CCF with H the old C, C inverted, N 0, Y X of A; SCF with C 1,
H and N 0, Y X of A; the flags not named are kept; nothing else changes but pc and R (R340 to R344; DAA is the spec's
decision D27, Y and X of CCF and SCF D3). Constructors: daa, cpl, neg, ccf, scf. -/
def Obligations.AccumulatorAndCarry : Prop :=
  ∀ (s : State) (a f n : Byte), a = s.main.a → f = s.main.f → n = ~~~s.main.a →
    exec .daa s = .next (({ s with main := { s.main with a := (adjusted f a).1, f := (adjusted f a).2 } }
      : State).endedAt (nextPc s 1))
    ∧ exec .cpl s = .next (({ s with main := { s.main with
        a := n
        f := flagByte (f.getLsbD 7) (f.getLsbD 6) (n.getLsbD 5) true (n.getLsbD 3) (f.getLsbD 2) true (f.getLsbD 0) } }
      : State).endedAt (nextPc s 1))
    ∧ exec .neg s = .next (({ s with main := { s.main with
        a := (differenceF 0#8 a false).1, f := (differenceF 0#8 a false).2 } } : State).endedAt (nextPc s 2))
    ∧ exec .ccf s = .next (({ s with main := { s.main with
        f := flagByte (f.getLsbD 7) (f.getLsbD 6) (a.getLsbD 5) (f.getLsbD 0) (a.getLsbD 3) (f.getLsbD 2) false
          (!f.getLsbD 0) } } : State).endedAt (nextPc s 1))
    ∧ exec .scf s = .next (({ s with main := { s.main with
        f := flagByte (f.getLsbD 7) (f.getLsbD 6) (a.getLsbD 5) false (a.getLsbD 3) (f.getLsbD 2) false true } }
      : State).endedAt (nextPc s 1))

/-- O44. NOP changes nothing but pc and R; HALT sets HALTED with pc at the next instruction; DI and EI clear and set both
flip-flops at once; IM n sets the interrupt mode; no flag, no other register but pc and R and no byte of memory
changes (R345 to R351; that EI has no delay is D10, the pc of HALT D11). Constructors: nop, halt, di, ei, im0, im1,
im2. -/
def Obligations.CpuControl : Prop :=
  ∀ s : State,
    exec .nop s = .next (s.endedAt (nextPc s 1))
    ∧ exec .halt s = .next (({ s with halted := true } : State).endedAt (nextPc s 1))
    ∧ exec .di s = .next (({ s with iff1 := false, iff2 := false } : State).endedAt (nextPc s 1))
    ∧ exec .ei s = .next (({ s with iff1 := true, iff2 := true } : State).endedAt (nextPc s 1))
    ∧ exec .im0 s = .next (({ s with im := .im0 } : State).endedAt (nextPc s 2))
    ∧ exec .im1 s = .next (({ s with im := .im1 } : State).endedAt (nextPc s 2))
    ∧ exec .im2 s = .next (({ s with im := .im2 } : State).endedAt (nextPc s 2))

/-- O45. Each 16-bit addition and subtraction completes from every state with its destination holding the result modulo
65536 and F as R37, R38 and R39 give it (S Z PV kept by ADD); nothing else changes but pc and R (R360 to R364; Y and X
are the spec's decision D3, H of SBC D4). Constructors: addHLPair, addIXPair, addIYPair, adcHLPair, sbcHLPair. -/
def Obligations.WordArithmetic : Prop :=
  ∀ (s : State) (ss : Pair) (pp : IXPair) (rr : IYPair) (f : Byte) (hl : Word), f = s.main.f → hl = s.main.hl →
    exec (.addHLPair ss) s = .next (({ s with main := { s.main.setHL (addWordF f hl (s.pair ss)).1 with
        f := (addWordF f hl (s.pair ss)).2 } } : State).endedAt (nextPc s 1))
    ∧ exec (.addIXPair pp) s = .next (({ s with
        ix := (addWordF f s.ix (s.ixPair pp)).1
        main := { s.main with f := (addWordF f s.ix (s.ixPair pp)).2 } } : State).endedAt (nextPc s 2))
    ∧ exec (.addIYPair rr) s = .next (({ s with
        iy := (addWordF f s.iy (s.iyPair rr)).1
        main := { s.main with f := (addWordF f s.iy (s.iyPair rr)).2 } } : State).endedAt (nextPc s 2))
    ∧ exec (.adcHLPair ss) s = .next (({ s with
        main := { s.main.setHL (adcWordF hl (s.pair ss) (f.getLsbD 0)).1 with
          f := (adcWordF hl (s.pair ss) (f.getLsbD 0)).2 } } : State).endedAt (nextPc s 2))
    ∧ exec (.sbcHLPair ss) s = .next (({ s with
        main := { s.main.setHL (sbcWordF hl (s.pair ss) (f.getLsbD 0)).1 with
          f := (sbcWordF hl (s.pair ss) (f.getLsbD 0)).2 } } : State).endedAt (nextPc s 2))

/-- O46. Each 16-bit increment and decrement completes from every state with its register one higher or lower modulo
65536; no flag, no other register but pc and R and no byte of memory changes (R365 to R370). Constructors: incPair,
incIX, incIY, decPair, decIX, decIY. -/
def Obligations.WordIncrements : Prop :=
  ∀ (s : State) (ss : Pair),
    exec (.incPair ss) s = .next ((s.setPair ss (BitVec.ofNat 16 ((s.pair ss).toNat + 1))).endedAt (nextPc s 1))
    ∧ exec .incIX s = .next (({ s with ix := BitVec.ofNat 16 (s.ix.toNat + 1) } : State).endedAt (nextPc s 2))
    ∧ exec .incIY s = .next (({ s with iy := BitVec.ofNat 16 (s.iy.toNat + 1) } : State).endedAt (nextPc s 2))
    ∧ exec (.decPair ss) s = .next ((s.setPair ss (BitVec.ofNat 16 ((s.pair ss).toNat + 65535))).endedAt (nextPc s 1))
    ∧ exec .decIX s = .next (({ s with ix := BitVec.ofNat 16 (s.ix.toNat + 65535) } : State).endedAt (nextPc s 2))
    ∧ exec .decIY s = .next (({ s with iy := BitVec.ofNat 16 (s.iy.toNat + 65535) } : State).endedAt (nextPc s 2))

/-- O47. Each accumulator rotate completes from every state with A rotated as R40 gives it, C the bit shifted out, H and N
0, Y X of the new A, S Z PV kept; nothing else changes but pc and R (R41, R380 to R383). Constructors: rlca, rla,
rrca, rra. -/
def Obligations.AccumulatorRotates : Prop :=
  ∀ (s : State) (i : Instr) (op : ShiftOp) (res : Byte × Bool),
    (i = .rlca ∧ op = .rlc ∨ i = .rla ∧ op = .rl ∨ i = .rrca ∧ op = .rrc ∨ i = .rra ∧ op = .rr) →
    res = op.result s.main.a (s.main.f.getLsbD 0) →
    exec i s = .next (({ s with main := { s.main with
        a := res.1
        f := flagByte (s.main.f.getLsbD 7) (s.main.f.getLsbD 6) (res.1.getLsbD 5) false (res.1.getLsbD 3)
          (s.main.f.getLsbD 2) false res.2 } } : State).endedAt (nextPc s 1))

/-- O48. Each rotate and shift of a register completes from every state with the register holding the result of R40 and F
whole as R41 gives it; nothing else changes but pc and R (R384, R388, R392, R396, R400, R404, R408). Constructors:
rlcReg, rrcReg, rlReg, rrReg, slaReg, sraReg, srlReg. -/
def Obligations.RegisterShifts : Prop :=
  ∀ (s : State) (op : ShiftOp) (r : Reg8) (res : Byte × Bool), res = op.result (s.main.get r) (s.main.f.getLsbD 0) →
    exec (op.onReg r) s
      = .next (({ s with main := { s.main.set r res.1 with f := shiftedF res } } : State).endedAt (nextPc s 2))

/-- O49. Each rotate and shift of a memory operand reads the byte, writes the result of R40 at the same address and
completes with F whole as R41 gives it; no other byte of memory and nothing else but pc and R changes; a fault of an
access is the instruction's (R385 to R387, R389 to R391, R393 to R395, R397 to R399, R401 to R403, R405 to R407, R409
to R411). Constructors: the 21 of ShiftOp.onMem (rlc, rrc, rl, rr, sla, sra, srl each IndHL, IndIX, IndIY). -/
def Obligations.MemoryShifts : Prop :=
  ∀ (s : State) (op : ShiftOp) (m : MemForm),
    ModifiesByte (op.onMem m) s (m.addr s) (2 + m.extra) (fun v =>
      ((op.result v (s.main.f.getLsbD 0)).1, { s.main with f := shiftedF (op.result v (s.main.f.getLsbD 0)) }))

/-- O50. RLD and RRD read the byte t at HL, write the rotated byte there and complete with the low digit of A exchanged as
R412 and R413 give it, S Z Y X and parity of the new A, H and N 0, C kept; no other byte of memory and nothing else
but pc and R changes; a fault of an access is the instruction's. Constructors: rld, rrd. -/
def Obligations.DigitRotates : Prop :=
  ∀ (s : State) (hi lo : Nat), hi = s.main.a.toNat / 16 → lo = s.main.a.toNat % 16 →
    ModifiesByte .rld s s.hl 2 (fun t =>
      (BitVec.ofNat 8 (t.toNat % 16 * 16 + lo), { s.main with
        a := BitVec.ofNat 8 (hi * 16 + t.toNat / 16)
        f := parityF (BitVec.ofNat 8 (hi * 16 + t.toNat / 16)) false (s.main.f.getLsbD 0) }))
    ∧ ModifiesByte .rrd s s.hl 2 (fun t =>
      (BitVec.ofNat 8 (lo * 16 + t.toNat / 16), { s.main with
        a := BitVec.ofNat 8 (hi * 16 + t.toNat % 16)
        f := parityF (BitVec.ofNat 8 (hi * 16 + t.toNat % 16)) false (s.main.f.getLsbD 0) }))

/-- O51. BIT b completes with S Z Y X and parity of the operand masked to bit b, H 1, N 0, C kept, for a register and for
each memory form, which is read once and not written; nothing else changes but pc and R; a fault of the read is the
instruction's (R420 to R423; Y and X are the spec's decision D3). Constructors: bitReg, bitIndHL, bitIndIX, bitIndIY. -/
def Obligations.BitTests : Prop :=
  ∀ (s : State) (b : BitVec 3) (r : Reg8) (d : Byte) (res : Byte → Regs),
    res = (fun v => { s.main with
      f := parityF (if v.getLsbD b.toNat then BitVec.ofNat 8 (2 ^ b.toNat) else 0#8) true (s.main.f.getLsbD 0) }) →
    TakesByte (.bitReg b r) s (.ok (s.main.get r, s)) 2 res
    ∧ TakesByte (.bitIndHL b) s (readByte s s.hl) 2 res
    ∧ TakesByte (.bitIndIX b d) s (readByte s (s.ea .ix d)) 4 res
    ∧ TakesByte (.bitIndIY b d) s (readByte s (s.ea .iy d)) 4 res

/-- O52. SET b and RES b complete with bit b of the operand 1 or 0 and its other bits as they were; a memory form reads
the byte and writes it back at the same address, always; no flag, no other register but pc and R and no other byte of
memory changes; a fault of an access is the instruction's (R424 to R431). Constructors: setReg, setIndHL, setIndIX,
setIndIY, resReg, resIndHL, resIndIX, resIndIY. -/
def Obligations.BitSetsAndResets : Prop :=
  ∀ (s : State) (b : BitVec 3) (r : Reg8) (d : Byte) (one zero : Byte → Byte),
    (∀ v k, k < 8 → (one v).getLsbD k = (decide (k = b.toNat) || v.getLsbD k)) →
    (∀ v k, k < 8 → (zero v).getLsbD k = (decide (k ≠ b.toNat) && v.getLsbD k)) →
    exec (.setReg b r) s = .next (({ s with main := s.main.set r (one (s.main.get r)) } : State).endedAt (nextPc s 2))
    ∧ exec (.resReg b r) s
        = .next (({ s with main := s.main.set r (zero (s.main.get r)) } : State).endedAt (nextPc s 2))
    ∧ ModifiesByte (.setIndHL b) s s.hl 2 (fun v => (one v, s.main))
    ∧ ModifiesByte (.setIndIX b d) s (s.ea .ix d) 4 (fun v => (one v, s.main))
    ∧ ModifiesByte (.setIndIY b d) s (s.ea .iy d) 4 (fun v => (one v, s.main))
    ∧ ModifiesByte (.resIndHL b) s s.hl 2 (fun v => (zero v, s.main))
    ∧ ModifiesByte (.resIndIX b d) s (s.ea .ix d) 4 (fun v => (zero v, s.main))
    ∧ ModifiesByte (.resIndIY b d) s (s.ea .iy d) 4 (fun v => (zero v, s.main))

/-- O53. Each absolute jump completes from every state with pc at its target, JP cc,nn at nn when the condition holds of F
and at the next instruction otherwise; no memory is read, and nothing else changes but R (R440, R441, R447 to R449).
Constructors: jp, jpCond, jpHL, jpIX, jpIY. -/
def Obligations.AbsoluteJumps : Prop :=
  ∀ (s : State) (cc : Cond) (nn : Word),
    exec (.jp nn) s = .next (s.endedAt nn)
    ∧ exec (.jpCond cc nn) s = .next (s.endedAt (if holds s.main.f cc then nn else nextPc s 3))
    ∧ exec .jpHL s = .next (s.endedAt s.main.hl)
    ∧ exec .jpIX s = .next (s.endedAt s.ix)
    ∧ exec .jpIY s = .next (s.endedAt s.iy)

/-- O54. Each relative jump completes from every state; taken, pc is the address of the next instruction plus the offset
read as a two's-complement number, modulo 65536; not taken, it is the next instruction; JR tests C or Z of F, DJNZ
lowers B modulo 256 and is taken when the new B is not 0; no flag and nothing else changes but R and, for DJNZ, B
(R118, R442 to R446, R450). Constructors: jr, jrC, jrNC, jrZ, jrNZ, djnz. -/
def Obligations.RelativeJumps : Prop :=
  ∀ (s : State) (e : Byte),
    exec (.jr e) s = .next (s.endedAt (relative s e))
    ∧ exec (.jrC e) s = .next (s.endedAt (if s.main.f.getLsbD 0 then relative s e else nextPc s 2))
    ∧ exec (.jrNC e) s = .next (s.endedAt (if s.main.f.getLsbD 0 then nextPc s 2 else relative s e))
    ∧ exec (.jrZ e) s = .next (s.endedAt (if s.main.f.getLsbD 6 then relative s e else nextPc s 2))
    ∧ exec (.jrNZ e) s = .next (s.endedAt (if s.main.f.getLsbD 6 then nextPc s 2 else relative s e))
    ∧ exec (.djnz e) s = .next (({ s with main := { s.main with b := s.main.b - 1#8 } } : State).endedAt
        (if s.main.b = 1#8 then nextPc s 2 else relative s e))

/-- O55. A taken call and every RST stores the address of the next instruction at SP - 2, low byte at the lower address,
leaves SP there and goes to its target (8 * t for RST); an untaken CALL cc,nn completes with pc at the next
instruction; no flag, no other register but R and no other byte of memory changes; a fault of a write is the
instruction's (R230, R451, R452, R457). Constructors: call, callCond, rst. -/
def Obligations.CallsAndRestarts : Prop :=
  ∀ (s : State) (cc : Cond) (nn : Word) (t : BitVec 3),
    StoresWord (.call nn) s (s.sp - 2#16) (nextPc s 3) (s.sp - 2#16) nn
    ∧ (holds s.main.f cc = true → StoresWord (.callCond cc nn) s (s.sp - 2#16) (nextPc s 3) (s.sp - 2#16) nn)
    ∧ (holds s.main.f cc = false → exec (.callCond cc nn) s = .next (s.endedAt (nextPc s 3)))
    ∧ StoresWord (.rst t) s (s.sp - 2#16) (nextPc s 1) (s.sp - 2#16) (BitVec.ofNat 16 (8 * t.toNat))

/-- O56. RET, a taken RET cc, RETI and RETN read the word at SP, raise SP by two and go to that word; RETN also copies
IFF2 into IFF1, the others leave both flip-flops; an untaken RET cc completes with pc at the next instruction; no
flag, no other register but R and no byte of memory changes; a fault of a read is the instruction's (R230, R453 to
R456, R521, R522; the flip-flops are the spec's decision D19). Constructors: ret, retCond, reti, retn. -/
def Obligations.Returns : Prop :=
  ∀ (s : State) (cc : Cond),
    ReturnsTo .ret s s.iff1
    ∧ (holds s.main.f cc = true → ReturnsTo (.retCond cc) s s.iff1)
    ∧ (holds s.main.f cc = false → exec (.retCond cc) s = .next (s.endedAt (nextPc s 1)))
    ∧ ReturnsTo .reti s s.iff1
    ∧ ReturnsTo .retn s s.iff2

/-- O57. IN A,(n) and IN r,(C) read one port and complete with the register holding the byte; IN r,(C) sets S Z Y X and
parity of it, H and N 0, C kept, IN A,(n) no flag; OUT (n),A and OUT (C),r write one port and complete with no flag
changed; nothing else changes but the device, pc and R, and no byte of memory; a fault of the access is the
instruction's (R470, R471, R476, R477; the port is 8 bits by the spec's decision D16; that a port access changes one
device's state only is log entry 5). Constructors: inAImm, inRegC, outImmA, outCReg. -/
def Obligations.PortTransfers : Prop :=
  ∀ (s : State) (r : Reg8) (n : Byte),
    TakesByte (.inAImm n) s (portRead s n) 2 (fun v => { s.main with a := v })
    ∧ TakesByte (.inRegC r) s (portRead s s.main.c) 2 (fun v =>
      { s.main.set r v with f := parityF v false (s.main.f.getLsbD 0) })
    ∧ ∀ (i : Instr) (p : Port) (v : Byte),
      i = .outImmA n ∧ p = n ∧ v = s.main.a ∨ i = .outCReg r ∧ p = s.main.c ∧ v = s.main.get r →
      (∀ u, portWrite s p v = .ok u → exec i s = .next (({ s with iodevs := u.iodevs } : State).endedAt (nextPc s 2)))
      ∧ ∀ f, portWrite s p v = .error f → exec i s = .fault f

/-- O58. Each block input reads port C, writes the byte at HL, steps HL up (INI, INIR) or down (IND, INDR) and lowers B
modulo 256; S Z Y X are of the new B, N is 1, C is kept, H and PV take some value (free, log entry 9: the statement
holds whatever they are); INIR and INDR go back to their own address while the new B is not 0; no other register but R
and no other byte of memory changes; a fault of an access is the instruction's (R472 to R475; flags D20, one iteration
a step D12; what a device may change is log entries 4 and 5). Constructors: ini, ind, inir, indr. -/
def Obligations.BlockInputs : Prop :=
  ∀ (s : State) (up : Bool),
    (∀ t s1 s2, portRead s s.main.c = .ok (t, s1) → writeByte s1 s.main.hl t = .ok s2 →
      StoredByte s s2 s.main.hl t ∧ ∃ (h pv : Bool) (n : Nat) (b : Byte) (u : State),
        b = s.main.b - 1#8
        ∧ u = { s with
            main := { s.main.setHL (if up then s.main.hl + 1#16 else s.main.hl - 1#16) with
              b := b
              f := flagByte (b.getLsbD 7) (decide (b = 0#8)) (b.getLsbD 5) h (b.getLsbD 3) pv true
                (s.main.f.getLsbD 0) }
            free := n, mem := s2.mem, memdevs := s2.memdevs, iodevs := s1.iodevs }
        ∧ exec (if up then .ini else .ind) s = .next (u.endedAt (nextPc s 2))
        ∧ exec (if up then .inir else .indr) s = .next (u.endedAt (if b = 0#8 then nextPc s 2 else s.pc)))
    ∧ (∀ f, portRead s s.main.c = .error f →
      exec (if up then .ini else .ind) s = .fault f ∧ exec (if up then .inir else .indr) s = .fault f)
    ∧ ∀ t s1 f, portRead s s.main.c = .ok (t, s1) → writeByte s1 s.main.hl t = .error f →
      exec (if up then .ini else .ind) s = .fault f ∧ exec (if up then .inir else .indr) s = .fault f

/-- O59. Each block output reads the byte at HL, writes it to port C, steps HL up (OUTI, OTIR) or down (OUTD, OTDR) and
lowers B modulo 256; S Z Y X are of the new B, N is 1, C is kept, H and PV take some value (free, log entry 9); OTIR
and OTDR go back to their own address while the new B is not 0; no byte of memory and no other register but R changes;
a fault of an access is the instruction's (R478 to R481; flags D20, one iteration a step D12; what a device may change
is log entries 4 and 5). Constructors: outi, outd, otir, otdr. -/
def Obligations.BlockOutputs : Prop :=
  ∀ (s : State) (up : Bool),
    (∀ t s1 s2, readByte s s.main.hl = .ok (t, s1) → portWrite s1 s.main.c t = .ok s2 →
      ∃ (h pv : Bool) (n : Nat) (b : Byte) (u : State),
        b = s.main.b - 1#8
        ∧ u = { s with
            main := { s.main.setHL (if up then s.main.hl + 1#16 else s.main.hl - 1#16) with
              b := b
              f := flagByte (b.getLsbD 7) (decide (b = 0#8)) (b.getLsbD 5) h (b.getLsbD 3) pv true
                (s.main.f.getLsbD 0) }
            free := n, memdevs := s1.memdevs, iodevs := s2.iodevs }
        ∧ exec (if up then .outi else .outd) s = .next (u.endedAt (nextPc s 2))
        ∧ exec (if up then .otir else .otdr) s = .next (u.endedAt (if b = 0#8 then nextPc s 2 else s.pc)))
    ∧ (∀ f, readByte s s.main.hl = .error f →
      exec (if up then .outi else .outd) s = .fault f ∧ exec (if up then .otir else .otdr) s = .fault f)
    ∧ ∀ t s1 f, readByte s s.main.hl = .ok (t, s1) → portWrite s1 s.main.c t = .error f →
      exec (if up then .outi else .outd) s = .fault f ∧ exec (if up then .otir else .otdr) s = .fault f

/-- O60. Between steps: writing a byte or word register makes that register read the value and every other register of its
width as before, a pair being its two halves, and changes no flip-flop, IM, HALTED, memory or device; writing IFF1,
IFF2 or IM sets that alone, and HALTED can be set only (log entry 30); a forced write to a RAM or ROM address
succeeds, reads back and changes no other byte; and each operation of the host (register write, load, save, memory
read, memory write, forced write, reset) that answers a machine keeps Inv; all but reset leave HALTED at 1 once it is
1, and all but the forced write leave every ROM byte as it was (R568); the host's memory read gives what `readAt`
gives and its memory write is `writeAt`, as O8 states them (R9, R21, R49, R68, R83, R560, R566 to R569; register
writes are the spec's decision D13; of a custom device's forced write nothing is claimed but Inv, log entries 20 and
31). That the host's memory read, memory write and forced write take a global offset, 65536 and above included, is the
model's choice, not the spec's (log entry 27, a DESIGN CHOICE: R64 speaks of 16-bit addresses, and R63 gives the
offsets from 65536 on to load and save only). -/
def Obligations.HostOperations : Prop :=
  (∀ (s t : State) (n : ByteReg) (v : Byte), t = s.setRegister (.byte n v) →
    (∀ m, t.byteReg m = if m = n then v else s.byteReg m)
    ∧ t.ix = s.ix ∧ t.iy = s.iy ∧ t.sp = s.sp ∧ t.pc = s.pc ∧ SameButRegisters s t)
  ∧ (∀ (s t : State) (n : WordReg) (v : Word), t = s.setRegister (.word n v) →
    (∀ m, t.wordReg m = if m = n then v else s.wordReg m) ∧ t.i = s.i ∧ t.r = s.r ∧ SameButRegisters s t)
  ∧ (∀ (s : State) (b : Bool) (m : IntMode),
    s.setRegister (.iff1 b) = { s with iff1 := b } ∧ s.setRegister (.iff2 b) = { s with iff2 := b }
    ∧ s.setRegister (.im m) = { s with im := m } ∧ s.setRegister .halted = { s with halted := true })
  ∧ (∀ (s : State) (a : Nat) (v : Byte) (l : Located), s.mem.wf = true → resolve s.memdevs a = some l →
    plainKind l.dev.kind = true →
    ∃ t, memForce s a v = .ok t ∧ t = { s with mem := t.mem } ∧ readAt t a = .ok (v, t)
      ∧ ∀ k, k ≠ a → t.mem.read k = s.mem.read k)
  ∧ ∀ (s t : State) (o : HostOp), hostOp s o = .ok t →
    (Inv s → Inv t) ∧ ((∀ g, o ≠ .reset g) → s.halted = true → t.halted = true)
    ∧ ((∀ a v, o ≠ .force a v) →
      ∀ (a : Nat) (l : Located), resolve s.memdevs a = some l → l.dev.kind = .rom → t.mem.read a = s.mem.read a)
    ∧ (∀ a, o = .memRead a → ∃ v, readAt s a = .ok (v, t)) ∧ ∀ a v, o = .memWrite a v → writeAt s a v = .ok t
end

