-- ==== Sys2Proof/Laws/State.lean ====
section
/-! SUPPORT. One lemma per field per update of `State`, so that no proof unfolds a record update. -/

namespace Sys2Proof.Machine

namespace State

variable (s : State)

/-! ### `setReg8` -/

@[simp] theorem setReg8_main (r : Reg8) (v : Byte) : (s.setReg8 r v).main = s.main.set r v := rfl
@[simp] theorem setReg8_alt (r : Reg8) (v : Byte) : (s.setReg8 r v).alt = s.alt := rfl
@[simp] theorem setReg8_ix (r : Reg8) (v : Byte) : (s.setReg8 r v).ix = s.ix := rfl
@[simp] theorem setReg8_iy (r : Reg8) (v : Byte) : (s.setReg8 r v).iy = s.iy := rfl
@[simp] theorem setReg8_sp (r : Reg8) (v : Byte) : (s.setReg8 r v).sp = s.sp := rfl
@[simp] theorem setReg8_pc (r : Reg8) (v : Byte) : (s.setReg8 r v).pc = s.pc := rfl
@[simp] theorem setReg8_i (r : Reg8) (v : Byte) : (s.setReg8 r v).i = s.i := rfl
@[simp] theorem setReg8_r (r : Reg8) (v : Byte) : (s.setReg8 r v).r = s.r := rfl
@[simp] theorem setReg8_iff1 (r : Reg8) (v : Byte) : (s.setReg8 r v).iff1 = s.iff1 := rfl
@[simp] theorem setReg8_iff2 (r : Reg8) (v : Byte) : (s.setReg8 r v).iff2 = s.iff2 := rfl
@[simp] theorem setReg8_im (r : Reg8) (v : Byte) : (s.setReg8 r v).im = s.im := rfl
@[simp] theorem setReg8_halted (r : Reg8) (v : Byte) : (s.setReg8 r v).halted = s.halted := rfl
@[simp] theorem setReg8_source (r : Reg8) (v : Byte) : (s.setReg8 r v).source = s.source := rfl
@[simp] theorem setReg8_free (r : Reg8) (v : Byte) : (s.setReg8 r v).free = s.free := rfl
@[simp] theorem setReg8_mem (r : Reg8) (v : Byte) : (s.setReg8 r v).mem = s.mem := rfl
@[simp] theorem setReg8_memdevs (r : Reg8) (v : Byte) : (s.setReg8 r v).memdevs = s.memdevs := rfl
@[simp] theorem setReg8_iodevs (r : Reg8) (v : Byte) : (s.setReg8 r v).iodevs = s.iodevs := rfl

/-! ### `setFlags` -/

@[simp] theorem setFlags_main (f : Flags) : (s.setFlags f).main = { s.main with f := f.toByte } := rfl
@[simp] theorem setFlags_alt (f : Flags) : (s.setFlags f).alt = s.alt := rfl
@[simp] theorem setFlags_ix (f : Flags) : (s.setFlags f).ix = s.ix := rfl
@[simp] theorem setFlags_iy (f : Flags) : (s.setFlags f).iy = s.iy := rfl
@[simp] theorem setFlags_sp (f : Flags) : (s.setFlags f).sp = s.sp := rfl
@[simp] theorem setFlags_pc (f : Flags) : (s.setFlags f).pc = s.pc := rfl
@[simp] theorem setFlags_i (f : Flags) : (s.setFlags f).i = s.i := rfl
@[simp] theorem setFlags_r (f : Flags) : (s.setFlags f).r = s.r := rfl
@[simp] theorem setFlags_iff1 (f : Flags) : (s.setFlags f).iff1 = s.iff1 := rfl
@[simp] theorem setFlags_iff2 (f : Flags) : (s.setFlags f).iff2 = s.iff2 := rfl
@[simp] theorem setFlags_im (f : Flags) : (s.setFlags f).im = s.im := rfl
@[simp] theorem setFlags_halted (f : Flags) : (s.setFlags f).halted = s.halted := rfl
@[simp] theorem setFlags_source (f : Flags) : (s.setFlags f).source = s.source := rfl
@[simp] theorem setFlags_free (f : Flags) : (s.setFlags f).free = s.free := rfl
@[simp] theorem setFlags_mem (f : Flags) : (s.setFlags f).mem = s.mem := rfl
@[simp] theorem setFlags_memdevs (f : Flags) : (s.setFlags f).memdevs = s.memdevs := rfl
@[simp] theorem setFlags_iodevs (f : Flags) : (s.setFlags f).iodevs = s.iodevs := rfl

/-! ### `setPair` -/

@[simp] theorem setPair_alt (p : Pair) (v : Word) : (s.setPair p v).alt = s.alt := by cases p <;> rfl
@[simp] theorem setPair_ix (p : Pair) (v : Word) : (s.setPair p v).ix = s.ix := by cases p <;> rfl
@[simp] theorem setPair_iy (p : Pair) (v : Word) : (s.setPair p v).iy = s.iy := by cases p <;> rfl
@[simp] theorem setPair_pc (p : Pair) (v : Word) : (s.setPair p v).pc = s.pc := by cases p <;> rfl
@[simp] theorem setPair_i (p : Pair) (v : Word) : (s.setPair p v).i = s.i := by cases p <;> rfl
@[simp] theorem setPair_r (p : Pair) (v : Word) : (s.setPair p v).r = s.r := by cases p <;> rfl
@[simp] theorem setPair_iff1 (p : Pair) (v : Word) : (s.setPair p v).iff1 = s.iff1 := by cases p <;> rfl
@[simp] theorem setPair_iff2 (p : Pair) (v : Word) : (s.setPair p v).iff2 = s.iff2 := by cases p <;> rfl
@[simp] theorem setPair_im (p : Pair) (v : Word) : (s.setPair p v).im = s.im := by cases p <;> rfl
@[simp] theorem setPair_halted (p : Pair) (v : Word) : (s.setPair p v).halted = s.halted := by cases p <;> rfl
@[simp] theorem setPair_source (p : Pair) (v : Word) : (s.setPair p v).source = s.source := by cases p <;> rfl
@[simp] theorem setPair_free (p : Pair) (v : Word) : (s.setPair p v).free = s.free := by cases p <;> rfl
@[simp] theorem setPair_mem (p : Pair) (v : Word) : (s.setPair p v).mem = s.mem := by cases p <;> rfl
@[simp] theorem setPair_memdevs (p : Pair) (v : Word) : (s.setPair p v).memdevs = s.memdevs := by cases p <;> rfl
@[simp] theorem setPair_iodevs (p : Pair) (v : Word) : (s.setPair p v).iodevs = s.iodevs := by cases p <;> rfl

/-! ### `setStackPair` -/

@[simp] theorem setStackPair_alt (p : StackPair) (v : Word) : (s.setStackPair p v).alt = s.alt := by cases p <;> rfl
@[simp] theorem setStackPair_ix (p : StackPair) (v : Word) : (s.setStackPair p v).ix = s.ix := by cases p <;> rfl
@[simp] theorem setStackPair_iy (p : StackPair) (v : Word) : (s.setStackPair p v).iy = s.iy := by cases p <;> rfl
@[simp] theorem setStackPair_sp (p : StackPair) (v : Word) : (s.setStackPair p v).sp = s.sp := by cases p <;> rfl
@[simp] theorem setStackPair_pc (p : StackPair) (v : Word) : (s.setStackPair p v).pc = s.pc := by cases p <;> rfl
@[simp] theorem setStackPair_i (p : StackPair) (v : Word) : (s.setStackPair p v).i = s.i := by cases p <;> rfl
@[simp] theorem setStackPair_r (p : StackPair) (v : Word) : (s.setStackPair p v).r = s.r := by cases p <;> rfl
@[simp] theorem setStackPair_iff1 (p : StackPair) (v : Word) :
    (s.setStackPair p v).iff1 = s.iff1 := by cases p <;> rfl
@[simp] theorem setStackPair_iff2 (p : StackPair) (v : Word) :
    (s.setStackPair p v).iff2 = s.iff2 := by cases p <;> rfl
@[simp] theorem setStackPair_im (p : StackPair) (v : Word) : (s.setStackPair p v).im = s.im := by cases p <;> rfl
@[simp] theorem setStackPair_halted (p : StackPair) (v : Word) :
    (s.setStackPair p v).halted = s.halted := by cases p <;> rfl
@[simp] theorem setStackPair_source (p : StackPair) (v : Word) :
    (s.setStackPair p v).source = s.source := by cases p <;> rfl
@[simp] theorem setStackPair_free (p : StackPair) (v : Word) :
    (s.setStackPair p v).free = s.free := by cases p <;> rfl
@[simp] theorem setStackPair_mem (p : StackPair) (v : Word) : (s.setStackPair p v).mem = s.mem := by cases p <;> rfl
@[simp] theorem setStackPair_memdevs (p : StackPair) (v : Word) :
    (s.setStackPair p v).memdevs = s.memdevs := by cases p <;> rfl
@[simp] theorem setStackPair_iodevs (p : StackPair) (v : Word) :
    (s.setStackPair p v).iodevs = s.iodevs := by cases p <;> rfl

/-! ### `setIndex` -/

@[simp] theorem setIndex_main (x : Index) (v : Word) : (s.setIndex x v).main = s.main := by cases x <;> rfl
@[simp] theorem setIndex_alt (x : Index) (v : Word) : (s.setIndex x v).alt = s.alt := by cases x <;> rfl
@[simp] theorem setIndex_sp (x : Index) (v : Word) : (s.setIndex x v).sp = s.sp := by cases x <;> rfl
@[simp] theorem setIndex_pc (x : Index) (v : Word) : (s.setIndex x v).pc = s.pc := by cases x <;> rfl
@[simp] theorem setIndex_i (x : Index) (v : Word) : (s.setIndex x v).i = s.i := by cases x <;> rfl
@[simp] theorem setIndex_r (x : Index) (v : Word) : (s.setIndex x v).r = s.r := by cases x <;> rfl
@[simp] theorem setIndex_iff1 (x : Index) (v : Word) : (s.setIndex x v).iff1 = s.iff1 := by cases x <;> rfl
@[simp] theorem setIndex_iff2 (x : Index) (v : Word) : (s.setIndex x v).iff2 = s.iff2 := by cases x <;> rfl
@[simp] theorem setIndex_im (x : Index) (v : Word) : (s.setIndex x v).im = s.im := by cases x <;> rfl
@[simp] theorem setIndex_halted (x : Index) (v : Word) : (s.setIndex x v).halted = s.halted := by cases x <;> rfl
@[simp] theorem setIndex_source (x : Index) (v : Word) : (s.setIndex x v).source = s.source := by cases x <;> rfl
@[simp] theorem setIndex_free (x : Index) (v : Word) : (s.setIndex x v).free = s.free := by cases x <;> rfl
@[simp] theorem setIndex_mem (x : Index) (v : Word) : (s.setIndex x v).mem = s.mem := by cases x <;> rfl
@[simp] theorem setIndex_memdevs (x : Index) (v : Word) : (s.setIndex x v).memdevs = s.memdevs := by cases x <;> rfl
@[simp] theorem setIndex_iodevs (x : Index) (v : Word) : (s.setIndex x v).iodevs = s.iodevs := by cases x <;> rfl

/-! ### `retireTo` -/

@[simp] theorem retireTo_main (t : Word) : (s.retireTo t).main = s.main := rfl
@[simp] theorem retireTo_alt (t : Word) : (s.retireTo t).alt = s.alt := rfl
@[simp] theorem retireTo_ix (t : Word) : (s.retireTo t).ix = s.ix := rfl
@[simp] theorem retireTo_iy (t : Word) : (s.retireTo t).iy = s.iy := rfl
@[simp] theorem retireTo_sp (t : Word) : (s.retireTo t).sp = s.sp := rfl
@[simp] theorem retireTo_pc (t : Word) : (s.retireTo t).pc = t := rfl
@[simp] theorem retireTo_i (t : Word) : (s.retireTo t).i = s.i := rfl
@[simp] theorem retireTo_r (t : Word) : (s.retireTo t).r = bumpR s.r := rfl
@[simp] theorem retireTo_iff1 (t : Word) : (s.retireTo t).iff1 = s.iff1 := rfl
@[simp] theorem retireTo_iff2 (t : Word) : (s.retireTo t).iff2 = s.iff2 := rfl
@[simp] theorem retireTo_im (t : Word) : (s.retireTo t).im = s.im := rfl
@[simp] theorem retireTo_halted (t : Word) : (s.retireTo t).halted = s.halted := rfl
@[simp] theorem retireTo_source (t : Word) : (s.retireTo t).source = .memory := rfl
@[simp] theorem retireTo_free (t : Word) : (s.retireTo t).free = s.free := rfl
@[simp] theorem retireTo_mem (t : Word) : (s.retireTo t).mem = s.mem := rfl
@[simp] theorem retireTo_memdevs (t : Word) : (s.retireTo t).memdevs = s.memdevs := rfl
@[simp] theorem retireTo_iodevs (t : Word) : (s.retireTo t).iodevs = s.iodevs := rfl

/-! ### `retire` -/

@[simp] theorem retire_main (len : Nat) : (s.retire len).main = s.main := rfl
@[simp] theorem retire_alt (len : Nat) : (s.retire len).alt = s.alt := rfl
@[simp] theorem retire_ix (len : Nat) : (s.retire len).ix = s.ix := rfl
@[simp] theorem retire_iy (len : Nat) : (s.retire len).iy = s.iy := rfl
@[simp] theorem retire_sp (len : Nat) : (s.retire len).sp = s.sp := rfl
@[simp] theorem retire_pc (len : Nat) : (s.retire len).pc = s.npc len := rfl
@[simp] theorem retire_i (len : Nat) : (s.retire len).i = s.i := rfl
@[simp] theorem retire_r (len : Nat) : (s.retire len).r = bumpR s.r := rfl
@[simp] theorem retire_iff1 (len : Nat) : (s.retire len).iff1 = s.iff1 := rfl
@[simp] theorem retire_iff2 (len : Nat) : (s.retire len).iff2 = s.iff2 := rfl
@[simp] theorem retire_im (len : Nat) : (s.retire len).im = s.im := rfl
@[simp] theorem retire_halted (len : Nat) : (s.retire len).halted = s.halted := rfl
@[simp] theorem retire_source (len : Nat) : (s.retire len).source = .memory := rfl
@[simp] theorem retire_free (len : Nat) : (s.retire len).free = s.free := rfl
@[simp] theorem retire_mem (len : Nat) : (s.retire len).mem = s.mem := rfl
@[simp] theorem retire_memdevs (len : Nat) : (s.retire len).memdevs = s.memdevs := rfl
@[simp] theorem retire_iodevs (len : Nat) : (s.retire len).iodevs = s.iodevs := rfl

/-! ### `setMemInternal` -/

@[simp] theorem setMemInternal_main (k n : Nat) : (s.setMemInternal k n).main = s.main := rfl
@[simp] theorem setMemInternal_alt (k n : Nat) : (s.setMemInternal k n).alt = s.alt := rfl
@[simp] theorem setMemInternal_ix (k n : Nat) : (s.setMemInternal k n).ix = s.ix := rfl
@[simp] theorem setMemInternal_iy (k n : Nat) : (s.setMemInternal k n).iy = s.iy := rfl
@[simp] theorem setMemInternal_sp (k n : Nat) : (s.setMemInternal k n).sp = s.sp := rfl
@[simp] theorem setMemInternal_pc (k n : Nat) : (s.setMemInternal k n).pc = s.pc := rfl
@[simp] theorem setMemInternal_i (k n : Nat) : (s.setMemInternal k n).i = s.i := rfl
@[simp] theorem setMemInternal_r (k n : Nat) : (s.setMemInternal k n).r = s.r := rfl
@[simp] theorem setMemInternal_iff1 (k n : Nat) : (s.setMemInternal k n).iff1 = s.iff1 := rfl
@[simp] theorem setMemInternal_iff2 (k n : Nat) : (s.setMemInternal k n).iff2 = s.iff2 := rfl
@[simp] theorem setMemInternal_im (k n : Nat) : (s.setMemInternal k n).im = s.im := rfl
@[simp] theorem setMemInternal_halted (k n : Nat) : (s.setMemInternal k n).halted = s.halted := rfl
@[simp] theorem setMemInternal_source (k n : Nat) : (s.setMemInternal k n).source = s.source := rfl
@[simp] theorem setMemInternal_free (k n : Nat) : (s.setMemInternal k n).free = s.free := rfl
@[simp] theorem setMemInternal_mem (k n : Nat) : (s.setMemInternal k n).mem = s.mem := rfl
@[simp] theorem setMemInternal_memdevs (k n : Nat) :
    (s.setMemInternal k n).memdevs = s.memdevs.modify k fun d => { d with internal := n } := rfl
@[simp] theorem setMemInternal_iodevs (k n : Nat) : (s.setMemInternal k n).iodevs = s.iodevs := rfl

/-! ### `setIODev` -/

@[simp] theorem setIODev_main (k : Nat) (d : IODev) : (s.setIODev k d).main = s.main := rfl
@[simp] theorem setIODev_alt (k : Nat) (d : IODev) : (s.setIODev k d).alt = s.alt := rfl
@[simp] theorem setIODev_ix (k : Nat) (d : IODev) : (s.setIODev k d).ix = s.ix := rfl
@[simp] theorem setIODev_iy (k : Nat) (d : IODev) : (s.setIODev k d).iy = s.iy := rfl
@[simp] theorem setIODev_sp (k : Nat) (d : IODev) : (s.setIODev k d).sp = s.sp := rfl
@[simp] theorem setIODev_pc (k : Nat) (d : IODev) : (s.setIODev k d).pc = s.pc := rfl
@[simp] theorem setIODev_i (k : Nat) (d : IODev) : (s.setIODev k d).i = s.i := rfl
@[simp] theorem setIODev_r (k : Nat) (d : IODev) : (s.setIODev k d).r = s.r := rfl
@[simp] theorem setIODev_iff1 (k : Nat) (d : IODev) : (s.setIODev k d).iff1 = s.iff1 := rfl
@[simp] theorem setIODev_iff2 (k : Nat) (d : IODev) : (s.setIODev k d).iff2 = s.iff2 := rfl
@[simp] theorem setIODev_im (k : Nat) (d : IODev) : (s.setIODev k d).im = s.im := rfl
@[simp] theorem setIODev_halted (k : Nat) (d : IODev) : (s.setIODev k d).halted = s.halted := rfl
@[simp] theorem setIODev_source (k : Nat) (d : IODev) : (s.setIODev k d).source = s.source := rfl
@[simp] theorem setIODev_free (k : Nat) (d : IODev) : (s.setIODev k d).free = s.free := rfl
@[simp] theorem setIODev_mem (k : Nat) (d : IODev) : (s.setIODev k d).mem = s.mem := rfl
@[simp] theorem setIODev_memdevs (k : Nat) (d : IODev) : (s.setIODev k d).memdevs = s.memdevs := rfl
@[simp] theorem setIODev_iodevs (k : Nat) (d : IODev) : (s.setIODev k d).iodevs = s.iodevs.set k d := rfl

/-! ### `tickAll` -/

@[simp] theorem tickAll_main : (s.tickAll).main = s.main := rfl
@[simp] theorem tickAll_alt : (s.tickAll).alt = s.alt := rfl
@[simp] theorem tickAll_ix : (s.tickAll).ix = s.ix := rfl
@[simp] theorem tickAll_iy : (s.tickAll).iy = s.iy := rfl
@[simp] theorem tickAll_sp : (s.tickAll).sp = s.sp := rfl
@[simp] theorem tickAll_pc : (s.tickAll).pc = s.pc := rfl
@[simp] theorem tickAll_i : (s.tickAll).i = s.i := rfl
@[simp] theorem tickAll_r : (s.tickAll).r = s.r := rfl
@[simp] theorem tickAll_iff1 : (s.tickAll).iff1 = s.iff1 := rfl
@[simp] theorem tickAll_iff2 : (s.tickAll).iff2 = s.iff2 := rfl
@[simp] theorem tickAll_im : (s.tickAll).im = s.im := rfl
@[simp] theorem tickAll_halted : (s.tickAll).halted = s.halted := rfl
@[simp] theorem tickAll_source : (s.tickAll).source = s.source := rfl
@[simp] theorem tickAll_free : (s.tickAll).free = s.free := rfl
@[simp] theorem tickAll_mem : (s.tickAll).mem = s.mem := rfl
@[simp] theorem tickAll_memdevs : (s.tickAll).memdevs = s.memdevs := rfl
@[simp] theorem tickAll_iodevs : (s.tickAll).iodevs = s.iodevs.map IODev.tick := rfl

/-! ### `ackDev` -/

@[simp] theorem ackDev_main (j : Nat) : (s.ackDev j).main = s.main := rfl
@[simp] theorem ackDev_alt (j : Nat) : (s.ackDev j).alt = s.alt := rfl
@[simp] theorem ackDev_ix (j : Nat) : (s.ackDev j).ix = s.ix := rfl
@[simp] theorem ackDev_iy (j : Nat) : (s.ackDev j).iy = s.iy := rfl
@[simp] theorem ackDev_sp (j : Nat) : (s.ackDev j).sp = s.sp := rfl
@[simp] theorem ackDev_pc (j : Nat) : (s.ackDev j).pc = s.pc := rfl
@[simp] theorem ackDev_i (j : Nat) : (s.ackDev j).i = s.i := rfl
@[simp] theorem ackDev_r (j : Nat) : (s.ackDev j).r = s.r := rfl
@[simp] theorem ackDev_iff1 (j : Nat) : (s.ackDev j).iff1 = s.iff1 := rfl
@[simp] theorem ackDev_iff2 (j : Nat) : (s.ackDev j).iff2 = s.iff2 := rfl
@[simp] theorem ackDev_im (j : Nat) : (s.ackDev j).im = s.im := rfl
@[simp] theorem ackDev_halted (j : Nat) : (s.ackDev j).halted = s.halted := rfl
@[simp] theorem ackDev_source (j : Nat) : (s.ackDev j).source = s.source := rfl
@[simp] theorem ackDev_free (j : Nat) : (s.ackDev j).free = s.free := rfl
@[simp] theorem ackDev_mem (j : Nat) : (s.ackDev j).mem = s.mem := rfl
@[simp] theorem ackDev_memdevs (j : Nat) : (s.ackDev j).memdevs = s.memdevs := rfl
@[simp] theorem ackDev_iodevs (j : Nat) : (s.ackDev j).iodevs = s.iodevs.modify j IODev.ack := rfl

/-! ### `maskFor` -/

@[simp] theorem maskFor_main (k : Interrupt) : (s.maskFor k).main = s.main := by cases k <;> rfl
@[simp] theorem maskFor_alt (k : Interrupt) : (s.maskFor k).alt = s.alt := by cases k <;> rfl
@[simp] theorem maskFor_ix (k : Interrupt) : (s.maskFor k).ix = s.ix := by cases k <;> rfl
@[simp] theorem maskFor_iy (k : Interrupt) : (s.maskFor k).iy = s.iy := by cases k <;> rfl
@[simp] theorem maskFor_sp (k : Interrupt) : (s.maskFor k).sp = s.sp := by cases k <;> rfl
@[simp] theorem maskFor_pc (k : Interrupt) : (s.maskFor k).pc = s.pc := by cases k <;> rfl
@[simp] theorem maskFor_i (k : Interrupt) : (s.maskFor k).i = s.i := by cases k <;> rfl
@[simp] theorem maskFor_r (k : Interrupt) : (s.maskFor k).r = s.r := by cases k <;> rfl
@[simp] theorem maskFor_iff1 (k : Interrupt) : (s.maskFor k).iff1 = false := by cases k <;> rfl
@[simp] theorem maskFor_im (k : Interrupt) : (s.maskFor k).im = s.im := by cases k <;> rfl
@[simp] theorem maskFor_halted (k : Interrupt) : (s.maskFor k).halted = s.halted := by cases k <;> rfl
@[simp] theorem maskFor_source (k : Interrupt) : (s.maskFor k).source = s.source := by cases k <;> rfl
@[simp] theorem maskFor_free (k : Interrupt) : (s.maskFor k).free = s.free := by cases k <;> rfl
@[simp] theorem maskFor_mem (k : Interrupt) : (s.maskFor k).mem = s.mem := by cases k <;> rfl
@[simp] theorem maskFor_memdevs (k : Interrupt) : (s.maskFor k).memdevs = s.memdevs := by cases k <;> rfl
@[simp] theorem maskFor_iodevs (k : Interrupt) : (s.maskFor k).iodevs = s.iodevs := by cases k <;> rfl

/-! ### `restoreIff1` -/

@[simp] theorem restoreIff1_main : (s.restoreIff1).main = s.main := rfl
@[simp] theorem restoreIff1_alt : (s.restoreIff1).alt = s.alt := rfl
@[simp] theorem restoreIff1_ix : (s.restoreIff1).ix = s.ix := rfl
@[simp] theorem restoreIff1_iy : (s.restoreIff1).iy = s.iy := rfl
@[simp] theorem restoreIff1_sp : (s.restoreIff1).sp = s.sp := rfl
@[simp] theorem restoreIff1_pc : (s.restoreIff1).pc = s.pc := rfl
@[simp] theorem restoreIff1_i : (s.restoreIff1).i = s.i := rfl
@[simp] theorem restoreIff1_r : (s.restoreIff1).r = s.r := rfl
@[simp] theorem restoreIff1_iff1 : (s.restoreIff1).iff1 = s.iff2 := rfl
@[simp] theorem restoreIff1_iff2 : (s.restoreIff1).iff2 = s.iff2 := rfl
@[simp] theorem restoreIff1_im : (s.restoreIff1).im = s.im := rfl
@[simp] theorem restoreIff1_halted : (s.restoreIff1).halted = s.halted := rfl
@[simp] theorem restoreIff1_source : (s.restoreIff1).source = s.source := rfl
@[simp] theorem restoreIff1_free : (s.restoreIff1).free = s.free := rfl
@[simp] theorem restoreIff1_mem : (s.restoreIff1).mem = s.mem := rfl
@[simp] theorem restoreIff1_memdevs : (s.restoreIff1).memdevs = s.memdevs := rfl
@[simp] theorem restoreIff1_iodevs : (s.restoreIff1).iodevs = s.iodevs := rfl

/-! ### `takeFree2` -/

@[simp] theorem takeFree2_main : (s.takeFree2.2.2).main = s.main := rfl
@[simp] theorem takeFree2_alt : (s.takeFree2.2.2).alt = s.alt := rfl
@[simp] theorem takeFree2_ix : (s.takeFree2.2.2).ix = s.ix := rfl
@[simp] theorem takeFree2_iy : (s.takeFree2.2.2).iy = s.iy := rfl
@[simp] theorem takeFree2_sp : (s.takeFree2.2.2).sp = s.sp := rfl
@[simp] theorem takeFree2_pc : (s.takeFree2.2.2).pc = s.pc := rfl
@[simp] theorem takeFree2_i : (s.takeFree2.2.2).i = s.i := rfl
@[simp] theorem takeFree2_r : (s.takeFree2.2.2).r = s.r := rfl
@[simp] theorem takeFree2_iff1 : (s.takeFree2.2.2).iff1 = s.iff1 := rfl
@[simp] theorem takeFree2_iff2 : (s.takeFree2.2.2).iff2 = s.iff2 := rfl
@[simp] theorem takeFree2_im : (s.takeFree2.2.2).im = s.im := rfl
@[simp] theorem takeFree2_halted : (s.takeFree2.2.2).halted = s.halted := rfl
@[simp] theorem takeFree2_source : (s.takeFree2.2.2).source = s.source := rfl
@[simp] theorem takeFree2_free : (s.takeFree2.2.2).free = s.free + 2 := rfl
@[simp] theorem takeFree2_mem : (s.takeFree2.2.2).mem = s.mem := rfl
@[simp] theorem takeFree2_memdevs : (s.takeFree2.2.2).memdevs = s.memdevs := rfl
@[simp] theorem takeFree2_iodevs : (s.takeFree2.2.2).iodevs = s.iodevs := rfl

/-! ### The fields an update does change -/

@[simp] theorem setPair_bc_main (v : Word) : (s.setPair .bc v).main = s.main.setBC v := rfl
@[simp] theorem setPair_de_main (v : Word) : (s.setPair .de v).main = s.main.setDE v := rfl
@[simp] theorem setPair_hl_main (v : Word) : (s.setPair .hl v).main = s.main.setHL v := rfl
@[simp] theorem setPair_sp_main (v : Word) : (s.setPair .sp v).main = s.main := rfl
@[simp] theorem setPair_bc_sp (v : Word) : (s.setPair .bc v).sp = s.sp := rfl
@[simp] theorem setPair_de_sp (v : Word) : (s.setPair .de v).sp = s.sp := rfl
@[simp] theorem setPair_hl_sp (v : Word) : (s.setPair .hl v).sp = s.sp := rfl
@[simp] theorem setPair_sp_sp (v : Word) : (s.setPair .sp v).sp = v := rfl
@[simp] theorem setStackPair_bc_main (v : Word) : (s.setStackPair .bc v).main = s.main.setBC v := rfl
@[simp] theorem setStackPair_de_main (v : Word) : (s.setStackPair .de v).main = s.main.setDE v := rfl
@[simp] theorem setStackPair_hl_main (v : Word) : (s.setStackPair .hl v).main = s.main.setHL v := rfl
@[simp] theorem setStackPair_af_main (v : Word) : (s.setStackPair .af v).main = s.main.setAF v := rfl
@[simp] theorem setIndex_ix_ix (v : Word) : (s.setIndex .ix v).ix = v := rfl
@[simp] theorem setIndex_ix_iy (v : Word) : (s.setIndex .ix v).iy = s.iy := rfl
@[simp] theorem setIndex_iy_iy (v : Word) : (s.setIndex .iy v).iy = v := rfl
@[simp] theorem setIndex_iy_ix (v : Word) : (s.setIndex .iy v).ix = s.ix := rfl
@[simp] theorem maskFor_nmi_iff2 : (s.maskFor .nmi).iff2 = s.iff1 := rfl
@[simp] theorem maskFor_mode1_iff2 : (s.maskFor .mode1).iff2 = false := rfl
@[simp] theorem maskFor_mode2_iff2 (low : Byte) : (s.maskFor (.mode2 low)).iff2 = false := rfl

end State

end Sys2Proof.Machine
end

