-- ==== Sys2Proof/Laws/Operands.lean ====
section
/-! SUPPORT. What a written operand reads as: registers, pairs and flags (R9, R21, R27). -/

namespace Sys2Proof

/-- Bit `i` of `{hi, lo}`. -/
theorem wordOf_getLsbD (lo hi : Byte) (i : Nat) :
    (wordOf lo hi).getLsbD i = if i < 8 then lo.getLsbD i else hi.getLsbD (i - 8) := by
  have h := BitVec.getLsbD_append (x := hi) (y := lo) (i := i)
  rw [wordOf, h]

@[simp] theorem loByte_wordOf (lo hi : Byte) : loByte (wordOf lo hi) = lo := by
  apply BitVec.eq_of_getLsbD_eq
  intro i hi'
  simp [loByte, wordOf_getLsbD, hi']

@[simp] theorem hiByte_wordOf (lo hi : Byte) : hiByte (wordOf lo hi) = hi := by
  apply BitVec.eq_of_getLsbD_eq
  intro i hi'
  simp [hiByte, wordOf_getLsbD, hi']

@[simp] theorem wordOf_lo_hi (v : Word) : wordOf (loByte v) (hiByte v) = v := by
  apply BitVec.eq_of_getLsbD_eq
  intro i hi'
  rw [wordOf_getLsbD]
  split
  · rename_i h
    simp [loByte, h]
  · have h8 : 8 + (i - 8) = i := by omega
    have h9 : i - 8 < 8 := by omega
    simp [hiByte, h8, h9]

namespace Machine

namespace Regs

variable (g : Regs) (v : Word)

@[simp] theorem setBC_bc : (g.setBC v).bc = v := by simp [setBC, bc]
@[simp] theorem setBC_de : (g.setBC v).de = g.de := rfl
@[simp] theorem setBC_hl : (g.setBC v).hl = g.hl := rfl
@[simp] theorem setBC_af : (g.setBC v).af = g.af := rfl
@[simp] theorem setDE_bc : (g.setDE v).bc = g.bc := rfl
@[simp] theorem setDE_de : (g.setDE v).de = v := by simp [setDE, de]
@[simp] theorem setDE_hl : (g.setDE v).hl = g.hl := rfl
@[simp] theorem setDE_af : (g.setDE v).af = g.af := rfl
@[simp] theorem setHL_bc : (g.setHL v).bc = g.bc := rfl
@[simp] theorem setHL_de : (g.setHL v).de = g.de := rfl
@[simp] theorem setHL_hl : (g.setHL v).hl = v := by simp [setHL, hl]
@[simp] theorem setHL_af : (g.setHL v).af = g.af := rfl
@[simp] theorem setAF_bc : (g.setAF v).bc = g.bc := rfl
@[simp] theorem setAF_de : (g.setAF v).de = g.de := rfl
@[simp] theorem setAF_hl : (g.setAF v).hl = g.hl := rfl
@[simp] theorem setAF_af : (g.setAF v).af = v := by simp [setAF, af]

@[simp] theorem get_set_same (r : Reg8) (w : Byte) : (g.set r w).get r = w := by cases r <;> rfl

theorem get_set_other {r q : Reg8} (w : Byte) (h : q ≠ r) : (g.set r w).get q = g.get q := by
  cases r <;> cases q <;> first | rfl | exact absurd rfl h

@[simp] theorem set_f (r : Reg8) (w : Byte) : (g.set r w).f = g.f := by cases r <;> rfl

end Regs

@[simp] theorem State.reg8_setReg8_same (s : State) (r : Reg8) (v : Byte) : (s.setReg8 r v).reg8 r = v :=
  Regs.get_set_same _ _ _

theorem State.reg8_setReg8_other (s : State) {r q : Reg8} (v : Byte) (h : q ≠ r) : (s.setReg8 r v).reg8 q = s.reg8 q :=
  Regs.get_set_other _ _ h

@[simp] theorem State.pair_setPair_same (s : State) (p : Pair) (v : Word) : (s.setPair p v).pair p = v := by
  cases p <;> simp [State.pair]

@[simp] theorem State.stackPair_setStackPair_same (s : State) (p : StackPair) (v : Word) :
    (s.setStackPair p v).stackPair p = v := by
  cases p <;> simp [State.stackPair]

@[simp] theorem State.index_setIndex_same (s : State) (x : Index) (v : Word) : (s.setIndex x v).index x = v := by
  cases x <;> rfl

/-! ## The flag byte -/

/-- Reading back the eight flags a byte was made of. -/
@[simp] theorem Flags.ofByte_toByte (f : Flags) : Flags.ofByte f.toByte = f := by
  obtain ⟨s, z, y, h, x, pv, n, c⟩ := f
  revert s z y h x pv n c
  decide

/-- "All eight bits are storage" (R27): the flags of a byte make up the byte again. -/
@[simp] theorem Flags.toByte_ofByte (v : Byte) : (Flags.ofByte v).toByte = v := by
  revert v
  decide

@[simp] theorem State.flags_setFlags (s : State) (f : Flags) : (s.setFlags f).flags = f := by
  simp [State.flags]

/-- The refresh counter keeps bit 7 and counts the low seven bits modulo 128 (R46). -/
theorem bumpR_toNat (r : Byte) : (bumpR r).toNat = r.toNat / 128 * 128 + (r.toNat % 128 + 1) % 128 := by
  revert r
  decide

end Machine

end Sys2Proof
end

