-- ==== Sys2Proof/Laws/Memory.lean ====
section
/-! SUPPORT. The laws of the byte list behind RAM and ROM: what a write changes, and that every operation keeps the canonical
form `Memory.wf`. -/

namespace Sys2Proof.Machine

namespace Memory

theorem risesFrom_of_le {lo lo' : Nat} {m : Memory} (h : risesFrom lo m = true) (hle : lo' ≤ lo) :
    risesFrom lo' m = true := by
  cases m with
  | nil => rfl
  | cons c m =>
    simp only [risesFrom, Bool.and_eq_true, decide_eq_true_eq] at h ⊢
    exact ⟨by omega, h.2⟩

theorem read_below {lo k : Nat} {m : Memory} (h : risesFrom lo m = true) (hk : k < lo) : m.read k = unlisted := by
  induction m generalizing lo with
  | nil => rfl
  | cons c m ih =>
    simp only [risesFrom, Bool.and_eq_true, decide_eq_true_eq] at h
    simp only [read]
    rw [if_neg (by omega)]
    exact ih h.2 (by omega)

theorem read_insert (m : Memory) (k j : Nat) (w : Byte) : (m.insert k w).read j = if j = k then w else m.read j := by
  induction m with
  | nil => simp [insert, read]
  | cons c m ih =>
    simp only [insert]
    split
    · simp [read]
    · split
      · rename_i h1 h2
        subst h2
        simp only [read]
        split <;> rfl
      · simp only [read, ih]
        split
        · rename_i h1 h2 h3
          rw [if_neg (by omega)]
        · rfl

theorem read_erase {lo : Nat} {m : Memory} (h : risesFrom lo m = true) (k j : Nat) :
    (m.erase k).read j = if j = k then unlisted else m.read j := by
  induction m generalizing lo with
  | nil => simp [erase, read]
  | cons c m ih =>
    simp only [risesFrom, Bool.and_eq_true, decide_eq_true_eq] at h
    simp only [erase]
    split
    · rename_i hk
      subst hk
      simp only [read]
      split
      · rename_i hj
        rw [hj]
        exact read_below h.2 (by omega)
      · rfl
    · simp only [read, ih h.2]
      split
      · rename_i h1 h2
        rw [if_neg (by omega)]
      · rfl

theorem risesFrom_insert {lo k : Nat} {m : Memory} (w : Byte) (h : risesFrom lo m = true) (hk : lo ≤ k) :
    risesFrom lo (m.insert k w) = true := by
  induction m generalizing lo with
  | nil => simpa [insert, risesFrom] using hk
  | cons c m ih =>
    simp only [risesFrom, Bool.and_eq_true, decide_eq_true_eq] at h
    simp only [insert]
    split
    · simp only [risesFrom, Bool.and_eq_true, decide_eq_true_eq]
      exact ⟨hk, by omega, h.2⟩
    · split
      · rename_i h1 h2
        subst h2
        simp only [risesFrom, Bool.and_eq_true, decide_eq_true_eq]
        exact ⟨hk, h.2⟩
      · simp only [risesFrom, Bool.and_eq_true, decide_eq_true_eq]
        exact ⟨h.1, ih h.2 (by omega)⟩

theorem risesFrom_erase {lo : Nat} {m : Memory} (k : Nat) (h : risesFrom lo m = true) :
    risesFrom lo (m.erase k) = true := by
  induction m generalizing lo with
  | nil => rfl
  | cons c m ih =>
    simp only [risesFrom, Bool.and_eq_true, decide_eq_true_eq] at h
    simp only [erase]
    split
    · exact risesFrom_of_le h.2 (by omega)
    · simp only [risesFrom, Bool.and_eq_true, decide_eq_true_eq]
      exact ⟨h.1, ih h.2⟩

theorem mem_insert {m : Memory} {k : Nat} {w : Byte} {c : Host.Cell} (h : c ∈ m.insert k w) : c = (k, w) ∨ c ∈ m := by
  induction m with
  | nil => simpa [insert] using h
  | cons d m ih =>
    simp only [insert] at h
    split at h
    · simpa using h
    · split at h
      · rcases List.mem_cons.mp h with h | h
        · exact .inl h
        · exact .inr (List.mem_cons_of_mem _ h)
      · rcases List.mem_cons.mp h with h | h
        · exact .inr (by simp [h])
        · rcases ih h with h | h
          · exact .inl h
          · exact .inr (List.mem_cons_of_mem _ h)

theorem mem_erase {m : Memory} {k : Nat} {c : Host.Cell} (h : c ∈ m.erase k) : c ∈ m := by
  induction m with
  | nil => simp [erase] at h
  | cons d m ih =>
    simp only [erase] at h
    split at h
    · exact List.mem_cons_of_mem _ h
    · rcases List.mem_cons.mp h with h | h
      · simp [h]
      · exact List.mem_cons_of_mem _ (ih h)

/-- A write is seen at its own offset and nowhere else. -/
theorem read_write {m : Memory} (h : m.wf = true) (k j : Nat) (v : Byte) :
    (m.write k v).read j = if j = k then v else m.read j := by
  simp only [wf, Bool.and_eq_true] at h
  simp only [write]
  split
  · rename_i hv
    rw [read_erase h.1, hv]
  · exact read_insert m k j v

/-- A write leaves every other offset alone, whatever the memory. -/
theorem read_write_other (m : Memory) {k j : Nat} (v : Byte) (hj : j ≠ k) : (m.write k v).read j = m.read j := by
  simp only [write]
  split
  · clear * - hj
    induction m with
    | nil => rfl
    | cons c m ih =>
      simp only [erase]
      split
      · rename_i hk
        simp only [read]
        rw [if_neg (by omega)]
      · simp only [read, ih]
  · rw [read_insert, if_neg hj]

/-- A write keeps the canonical form. -/
theorem wf_write {m : Memory} (h : m.wf = true) (k : Nat) (v : Byte) : (m.write k v).wf = true := by
  simp only [wf, Bool.and_eq_true, List.all_eq_true] at h ⊢
  simp only [write]
  split
  · exact ⟨risesFrom_erase k h.1, fun c hc => h.2 c (mem_erase hc)⟩
  · rename_i hv
    refine ⟨risesFrom_insert v h.1 (Nat.zero_le _), fun c hc => ?_⟩
    rcases mem_insert hc with rfl | hc
    · simpa using hv
    · exact h.2 c hc

/-- In canonical form two memories that read alike are one list. -/
theorem eq_of_read_eq {m n : Memory} {lo : Nat} (hm : risesFrom lo m = true) (hn : risesFrom lo n = true)
    (um : ∀ c ∈ m, c.2 ≠ unlisted) (un : ∀ c ∈ n, c.2 ≠ unlisted) (h : ∀ k, m.read k = n.read k) : m = n := by
  induction m generalizing n lo with
  | nil =>
    cases n with
    | nil => rfl
    | cons d n =>
      have h1 := h d.1
      simp only [read, if_true] at h1
      exact absurd h1.symm (un d (by simp))
  | cons c m ih =>
    cases n with
    | nil =>
      have h1 := h c.1
      simp only [read, if_true] at h1
      exact absurd h1 (um c (by simp))
    | cons d n =>
      simp only [risesFrom, Bool.and_eq_true, decide_eq_true_eq] at hm hn
      have hcd : c.1 = d.1 := by
        rcases Nat.lt_trichotomy c.1 d.1 with hlt | heq | hgt
        · have h1 := h c.1
          simp only [read, if_true] at h1
          rw [if_neg (by omega), read_below hn.2 (by omega)] at h1
          exact absurd h1 (um c (by simp))
        · exact heq
        · have h1 := h d.1
          simp only [read, if_true] at h1
          rw [if_neg (by omega), read_below hm.2 (by omega)] at h1
          exact absurd h1.symm (un d (by simp))
      have hv := h c.1
      simp only [read, if_true] at hv
      rw [if_pos hcd] at hv
      have hc : c = d := Prod.ext hcd hv
      rw [hc, ih hm.2 (by rw [hcd]; exact hn.2) (fun e he => um e (by simp [he])) (fun e he => un e (by simp [he]))]
      intro k
      have hk := h k
      simp only [read] at hk
      by_cases hkc : k = c.1
      · rw [read_below hm.2 (by omega), read_below hn.2 (by omega)]
      · rwa [if_neg hkc, if_neg (by omega)] at hk

/-- Equal memories are equal data: the reason for the canonical form. -/
theorem wf_ext {m n : Memory} (hm : m.wf = true) (hn : n.wf = true) (h : ∀ k, m.read k = n.read k) : m = n := by
  simp only [wf, Bool.and_eq_true, List.all_eq_true, bne_iff_ne] at hm hn
  exact eq_of_read_eq hm.1 hn.1 hm.2 hn.2 h

/-- The empty memory is canonical. -/
theorem wf_nil : wf [] = true := rfl

end Memory

end Sys2Proof.Machine
end

