-- ==== Sys2Proof/Laws/Ops.lean ====
section
/-! SUPPORT. For each shared operation, once, everything it can do when it answers: which fields it may change and how. -/

namespace Sys2Proof.Machine

@[simp] theorem andThen_ok {α : Type} (a : α) (k : α → Res) : andThen (.ok a) k = k a := rfl
@[simp] theorem andThen_error {α : Type} (f : Fault) (k : α → Res) : andThen (.error f : Except Fault α) k = .fault f := rfl

/-- When a sequence ends in a next state its first access answered. -/
theorem andThen_next {α : Type} {e : Except Fault α} {k : α → Res} {t : State} (h : andThen e k = .next t) :
    ∃ a, e = .ok a ∧ k a = .next t := by
  cases e with
  | ok a => exact ⟨a, rfl, h⟩
  | error f => simp at h

/-! ## Resolution -/

/-- A resolved offset lies in its device (R62, R64). -/
theorem resolve_offset {ds : List MemDev} {a : Nat} {l : Located} (h : resolve ds a = some l) : l.offset < l.dev.size := by
  induction ds generalizing a l with
  | nil => simp [resolve] at h
  | cons d ds ih =>
    simp only [resolve] at h
    split at h
    · rename_i ha
      cases h
      exact ha
    · cases hr : resolve ds (a - d.size) with
      | none => simp [hr] at h
      | some l' =>
        simp only [hr, Option.map_some, Option.some.injEq] at h
        subst h
        exact ih (a := a - d.size) (l := l') hr

/-- An address resolves exactly when it is below `TOTAL` (R62, R65). -/
theorem resolve_isSome (ds : List MemDev) (a : Nat) : (resolve ds a).isSome = decide (a < totalSize ds) := by
  induction ds generalizing a with
  | nil => simp [resolve, totalSize]
  | cons d ds ih =>
    have ih' := ih (a - d.size)
    simp only [resolve, totalSize, List.map_cons, List.sum_cons] at ih' ⊢
    split
    · rename_i h
      symm
      simpa using (by omega : a < d.size + (List.map MemDev.size ds).sum)
    · simp only [Option.isSome_map, ih']
      congr 1
      apply propext
      omega

/-- Changing a custom device's internal state moves no device: the same offset resolves to the same place and kind. -/
theorem resolve_modify (ds : List MemDev) (k n a : Nat) :
    (resolve (ds.modify k fun d => { d with internal := n }) a).map (fun l => (l.index, l.offset, l.dev.kind))
      = (resolve ds a).map (fun l => (l.index, l.offset, l.dev.kind)) := by
  induction ds generalizing k a with
  | nil => simp [resolve]
  | cons d ds ih =>
    cases k with
    | zero =>
      simp only [List.modify_zero_cons, resolve]
      split <;> simp
    | succ k =>
      simp only [List.modify_succ_cons, resolve]
      split
      · simp
      · have := ih k (a - d.size)
        revert this
        cases resolve (ds.modify k fun d => { d with internal := n }) (a - d.size) <;>
          cases resolve ds (a - d.size) <;> simp

/-- The kind of the device at an address, if any (a view of `resolve` that no step changes). -/
def kindAt (ds : List MemDev) (a : Nat) : Option MemKind := (resolve ds a).map fun l => l.dev.kind

theorem kindAt_modify (ds : List MemDev) (k n a : Nat) :
    kindAt (ds.modify k fun d => { d with internal := n }) a = kindAt ds a := by
  have h := congrArg (Option.map fun x => x.2.2) (resolve_modify ds k n a)
  simpa [kindAt, Option.map_map, Function.comp_def] using h

@[simp] theorem memShape_setMemInternal (s : State) (k n : Nat) : memShape (s.setMemInternal k n) = memShape s := by
  simp only [memShape, State.setMemInternal_memdevs]
  generalize s.memdevs = ds
  induction ds generalizing k with
  | nil => simp
  | cons d ds ih =>
    cases k with
    | zero => simp
    | succ k => simp [ih k]

/-- A memory's backing does not depend on the internal states of custom devices. -/
theorem backed_eq_kindAt (ds : List MemDev) (m : Memory) :
    backed ds m = m.all fun c => match kindAt ds c.1 with | some k => plainKind k | none => false := by
  simp only [backed, kindAt]
  congr 1
  funext c
  cases resolve ds c.1 <;> rfl

/-! ## Byte accesses -/

/-- Everything a byte read can do (R66): a RAM or ROM byte comes from the memory and nothing changes; a custom device's own
internal state may change, and nothing else. -/
theorem readAt_cases {s t : State} {a : Nat} {v : Byte} (h : readAt s a = .ok (v, t)) :
    (∃ k, kindAt s.memdevs a = some k ∧ plainKind k = true ∧ v = s.mem.read a ∧ t = s)
      ∨ ∃ ro id k n, kindAt s.memdevs a = some (.custom ro id) ∧ t = s.setMemInternal k n := by
  simp only [readAt] at h
  cases hr : resolve s.memdevs a with
  | none => simp [hr] at h
  | some l =>
    simp only [hr] at h
    cases hk : l.dev.kind with
    | ram =>
      simp only [hk, Except.ok.injEq, Prod.mk.injEq] at h
      exact .inl ⟨.ram, by simp [kindAt, hr, hk], rfl, h.1.symm, h.2.symm⟩
    | rom =>
      simp only [hk, Except.ok.injEq, Prod.mk.injEq] at h
      exact .inl ⟨.rom, by simp [kindAt, hr, hk], rfl, h.1.symm, h.2.symm⟩
    | custom ro id =>
      simp only [hk] at h
      cases hd : Config.memDevRead id l.dev.internal l.offset with
      | error e => simp [hd] at h
      | ok r =>
        simp only [hd, Except.ok.injEq, Prod.mk.injEq] at h
        exact .inr ⟨ro, id, l.index, r.2, by simp [kindAt, hr, hk], h.2.symm⟩

/-- Everything a byte write can do (R67): the RAM byte is stored, or a custom device's own internal state changes. -/
theorem writeAt_cases {s t : State} {a : Nat} {v : Byte} (h : writeAt s a v = .ok t) :
    (kindAt s.memdevs a = some .ram ∧ t = { s with mem := s.mem.write a v })
      ∨ ∃ id k n, kindAt s.memdevs a = some (.custom false id) ∧ t = s.setMemInternal k n := by
  simp only [writeAt] at h
  cases hr : resolve s.memdevs a with
  | none => simp [hr] at h
  | some l =>
    simp only [hr] at h
    split at h
    · simp at h
    · rename_i hro
      cases hk : l.dev.kind with
      | ram =>
        simp only [hk, Except.ok.injEq] at h
        exact .inl ⟨by simp [kindAt, hr, hk], h.symm⟩
      | rom => simp [hk] at h
      | custom ro id =>
        simp only [hk] at h
        have hro' : ro = false := by simpa [MemDev.readonly, hk] using hro
        cases hd : Config.memDevWrite id l.dev.internal l.offset v with
        | error e => simp [hd] at h
        | ok n =>
          simp only [hd, Except.ok.injEq] at h
          exact .inr ⟨id, l.index, n, by simp [kindAt, hr, hk, hro'], h.symm⟩

/-- A read of a RAM or ROM byte answers that byte and changes nothing (R74). -/
theorem readByte_plain {s : State} {a : Word} (h : PlainAt s a) : readByte s a = .ok (s.mem.read a.toNat, s) := by
  obtain ⟨l, hl, hp⟩ := h
  simp only [readByte, readAt, hl]
  cases hk : l.dev.kind <;> simp_all [plainKind]

/-- A write of a RAM byte stores it (R61, R67). -/
theorem writeByte_ram {s : State} {a : Word} (v : Byte) (h : RamAt s a) :
    writeByte s a v = .ok { s with mem := s.mem.write a.toNat v } := by
  obtain ⟨l, hl, hk⟩ := h
  simp [writeByte, writeAt, hl, hk, MemDev.readonly]

theorem RamAt.plain {s : State} {a : Word} (h : RamAt s a) : PlainAt s a := by
  obtain ⟨l, hl, hk⟩ := h
  exact ⟨l, hl, by simp [hk, plainKind]⟩

/-! ## What a memory access leaves alone -/

/-- `t` is `s` but for the internal states of custom memory devices. -/
def ReadFrame (s t : State) : Prop :=
  t = { s with memdevs := t.memdevs } ∧ memShape t = memShape s ∧ ∀ a, kindAt t.memdevs a = kindAt s.memdevs a

/-- `t` is `s` but for the bytes of memory and the internal states of custom memory devices. -/
def WriteFrame (s t : State) : Prop :=
  t = { s with mem := t.mem, memdevs := t.memdevs } ∧ memShape t = memShape s
    ∧ ∀ a, kindAt t.memdevs a = kindAt s.memdevs a

theorem ReadFrame.refl (s : State) : ReadFrame s s := ⟨rfl, rfl, fun _ => rfl⟩

theorem ReadFrame.trans {s t u : State} (h1 : ReadFrame s t) (h2 : ReadFrame t u) : ReadFrame s u := by
  refine ⟨?_, h2.2.1.trans h1.2.1, fun a => (h2.2.2 a).trans (h1.2.2 a)⟩
  have e1 := h1.1
  have e2 := h2.1
  rw [e1] at e2
  exact e2

theorem ReadFrame.write {s t : State} (h : ReadFrame s t) : WriteFrame s t := by
  refine ⟨?_, h.2.1, h.2.2⟩
  have e := h.1
  rw [e]

theorem WriteFrame.trans {s t u : State} (h1 : WriteFrame s t) (h2 : WriteFrame t u) : WriteFrame s u := by
  refine ⟨?_, h2.2.1.trans h1.2.1, fun a => (h2.2.2 a).trans (h1.2.2 a)⟩
  have e1 := h1.1
  have e2 := h2.1
  rw [e1] at e2
  exact e2

theorem readFrame_setMemInternal (s : State) (k n : Nat) : ReadFrame s (s.setMemInternal k n) :=
  ⟨rfl, memShape_setMemInternal s k n, kindAt_modify _ _ _⟩

/-- A byte read changes at most a custom device's internal state. -/
theorem readByte_frame {s t : State} {a : Word} {v : Byte} (h : readByte s a = .ok (v, t)) : ReadFrame s t := by
  rcases readAt_cases h with ⟨_, _, _, _, rfl⟩ | ⟨_, _, k, n, _, rfl⟩
  · exact .refl _
  · exact readFrame_setMemInternal s k n

/-- A byte write changes at most the byte written and a custom device's internal state. -/
theorem writeByte_frame {s t : State} {a : Word} {v : Byte} (h : writeByte s a v = .ok t) :
    WriteFrame s t ∧ ∀ k, k ≠ a.toNat → t.mem.read k = s.mem.read k := by
  rcases writeAt_cases h with ⟨_, rfl⟩ | ⟨_, k, n, _, rfl⟩
  · exact ⟨⟨rfl, rfl, fun _ => rfl⟩, fun k hk => Memory.read_write_other _ _ hk⟩
  · exact ⟨(readFrame_setMemInternal s k n).write, fun _ _ => rfl⟩

/-! ## Words and the stack -/

/-- A word read is two byte reads, the low one first (R70). -/
theorem readWord_ok {s t : State} {a v : Word} (h : readWord s a = .ok (v, t)) :
    ∃ lo hi s1, readByte s a = .ok (lo, s1) ∧ readByte s1 (a + 1#16) = .ok (hi, t) ∧ v = wordOf lo hi := by
  simp only [readWord] at h
  cases h1 : readByte s a with
  | error f => simp [h1] at h
  | ok r =>
    simp only [h1] at h
    cases h2 : readByte r.2 (a + 1#16) with
    | error f => simp [h2] at h
    | ok q =>
      simp only [h2, Except.ok.injEq, Prod.mk.injEq] at h
      exact ⟨r.1, q.1, r.2, rfl, by rw [h2, ← h.2], h.1.symm⟩

theorem readWord_frame {s t : State} {a v : Word} (h : readWord s a = .ok (v, t)) : ReadFrame s t := by
  obtain ⟨_, _, _, h1, h2, _⟩ := readWord_ok h
  exact (readByte_frame h1).trans (readByte_frame h2)

/-- A word write is two byte writes, the low one first (R71). -/
theorem writeWord_ok {s t : State} {a v : Word} (h : writeWord s a v = .ok t) :
    ∃ s1, writeByte s a (loByte v) = .ok s1 ∧ writeByte s1 (a + 1#16) (hiByte v) = .ok t := by
  simp only [writeWord] at h
  cases h1 : writeByte s a (loByte v) with
  | error f => simp [h1] at h
  | ok s1 =>
    simp only [h1] at h
    exact ⟨s1, rfl, h⟩

theorem writeWord_frame {s t : State} {a v : Word} (h : writeWord s a v = .ok t) :
    WriteFrame s t ∧ ∀ k, k ≠ a.toNat → k ≠ (a + 1#16).toNat → t.mem.read k = s.mem.read k := by
  obtain ⟨s1, h1, h2⟩ := writeWord_ok h
  have f1 := writeByte_frame h1
  have f2 := writeByte_frame h2
  exact ⟨f1.1.trans f2.1, fun k hk hk' => (f2.2 k hk').trans (f1.2 k hk)⟩

theorem readWord_plain {s : State} {a : Word} (h0 : PlainAt s a) (h1 : PlainAt s (a + 1#16)) :
    readWord s a = .ok (wordOf (s.mem.read a.toNat) (s.mem.read (a + 1#16).toNat), s) := by
  rw [readWord, readByte_plain h0]
  simp only [readByte_plain h1]

theorem writeWord_ram {s : State} {a : Word} (v : Word) (h0 : RamAt s a) (h1 : RamAt s (a + 1#16)) :
    writeWord s a v
      = .ok { s with mem := (s.mem.write a.toNat (loByte v)).write (a + 1#16).toNat (hiByte v) } := by
  have h1' : RamAt { s with mem := s.mem.write a.toNat (loByte v) } (a + 1#16) := h1
  rw [writeWord, writeByte_ram _ h0]
  exact writeByte_ram _ h1'

/-- A pop is a word read at `SP`, and `SP` two higher (R230). -/
theorem pop16_ok {s t : State} {v : Word} (h : pop16 s = .ok (v, t)) :
    ∃ s1, readWord s s.sp = .ok (v, s1) ∧ t = { s1 with sp := s.sp + 2#16 } := by
  simp only [pop16] at h
  cases h1 : readWord s s.sp with
  | error f => simp [h1] at h
  | ok r =>
    simp only [h1, Except.ok.injEq, Prod.mk.injEq] at h
    refine ⟨r.2, by rw [← h.1], ?_⟩
    have e : r.2.sp = s.sp := by rw [(readWord_frame h1).1]
    rw [← h.2, e]

/-! ## Ports -/

/-- `owner` finds the device at the place it names, and that device claims the port (R84). -/
theorem owner_some {ds : List IODev} {p : Port} {k : Nat} {d : IODev} (h : owner ds p = some (k, d)) :
    ds[k]? = some d ∧ p ∈ d.ports := by
  induction ds generalizing k d with
  | nil => simp [owner] at h
  | cons e ds ih =>
    simp only [owner] at h
    split at h
    · rename_i hp
      simp only [Option.some.injEq, Prod.mk.injEq] at h
      obtain ⟨rfl, rfl⟩ := h
      exact ⟨rfl, by simpa using hp⟩
    · cases ho : owner ds p with
      | none => simp [ho] at h
      | some r =>
        simp only [ho, Option.map_some, Option.some.injEq, Prod.mk.injEq] at h
        obtain ⟨rfl, rfl⟩ := h
        exact ⟨by simpa using (ih ho).1, (ih ho).2⟩

@[simp] theorem IODev.tick_ports (d : IODev) : d.tick.ports = d.ports := by
  simp only [IODev.tick]; split <;> rfl

@[simp] theorem IODev.ack_ports (d : IODev) : d.ack.ports = d.ports := by
  simp only [IODev.ack]; split <;> rfl

theorem IODev.portIn_ports {d e : IODev} {p : Port} {v : Byte} (h : d.portIn p = .ok (v, e)) : e.ports = d.ports := by
  simp only [IODev.portIn] at h
  split at h
  · simp only [Except.ok.injEq, Prod.mk.injEq] at h
    rw [h.2]
  · split at h
    · simp only [Except.ok.injEq, Prod.mk.injEq] at h
      rw [← h.2]
    · simp at h

theorem IODev.portOut_ports {d e : IODev} {p : Port} {v : Byte} (h : d.portOut p v = .ok e) : e.ports = d.ports := by
  simp only [IODev.portOut] at h
  split at h
  · simp only [Except.ok.injEq] at h
    rw [← h]
  · split at h
    · simp only [Except.ok.injEq] at h
      rw [← h]
    · simp at h

/-- `t` is `s` but for the states of the I/O devices, which keep their ports. -/
def PortFrame (s t : State) : Prop := t = { s with iodevs := t.iodevs } ∧ portShape t = portShape s

theorem portFrame_set {s : State} {p : Port} {k : Nat} {d e : IODev} (ho : owner s.iodevs p = some (k, d))
    (hp : e.ports = d.ports) : PortFrame s (s.setIODev k e) := by
  refine ⟨rfl, ?_⟩
  simp only [portShape, State.setIODev_iodevs, List.map_set]
  apply List.ext_getElem?
  intro j
  rw [List.getElem?_set]
  split
  · rename_i hj
    subst hj
    have := (owner_some ho).1
    have hlen : k < s.iodevs.length := by
      rcases Nat.lt_or_ge k s.iodevs.length with hl | hl
      · exact hl
      · simp [List.getElem?_eq_none hl] at this
    have hd : s.iodevs[k] = d := by simpa [List.getElem?_eq_getElem hlen] using this
    simp [hp, hlen, hd]
  · rfl

/-- A port read changes at most the states of the I/O devices (R86). -/
theorem portRead_frame {s t : State} {p : Port} {v : Byte} (h : portRead s p = .ok (v, t)) : PortFrame s t := by
  simp only [portRead] at h
  cases ho : owner s.iodevs p with
  | none => simp [ho] at h
  | some r =>
    simp only [ho] at h
    cases hd : r.2.portIn p with
    | error e => simp [hd] at h
    | ok q =>
      simp only [hd, Except.ok.injEq, Prod.mk.injEq] at h
      rw [← h.2]
      exact portFrame_set ho (IODev.portIn_ports hd)

/-- A port write changes at most the states of the I/O devices (R87). -/
theorem portWrite_frame {s t : State} {p : Port} {v : Byte} (h : portWrite s p v = .ok t) : PortFrame s t := by
  simp only [portWrite] at h
  cases ho : owner s.iodevs p with
  | none => simp [ho] at h
  | some r =>
    simp only [ho] at h
    cases hd : r.2.portOut p v with
    | error e => simp [hd] at h
    | ok q =>
      simp only [hd, Except.ok.injEq] at h
      rw [← h]
      exact portFrame_set ho (IODev.portOut_ports hd)

/-! ## Placing an instruction -/

/-- Placing bytes keeps the memory's canonical form. -/
theorem Memory.wf_place {m : Memory} (h : m.wf = true) (a : Word) (bs : List Byte) : (m.place a bs).wf = true := by
  induction bs generalizing m a with
  | nil => exact h
  | cons v vs ih => exact ih (Memory.wf_write h _ _) _

/-! ## The invariant under one access -/

/-- A custom device's new internal state keeps the invariant. -/
theorem inv_setMemInternal {s : State} (hs : Inv s) (k n : Nat) : Inv (s.setMemInternal k n) := by
  refine ⟨hs.memory, ?_, hs.ports, hs.source⟩
  have hb := hs.backed
  rw [backed_eq_kindAt] at hb ⊢
  simpa [State.setMemInternal, kindAt_modify] using hb

/-- A byte of a RAM or ROM device written keeps the invariant. -/
theorem inv_write {s : State} {a : Nat} {k : MemKind} (hs : Inv s) (v : Byte) (hk : kindAt s.memdevs a = some k)
    (hp : plainKind k = true) : Inv { s with mem := s.mem.write a v } := by
  refine ⟨Memory.wf_write hs.memory _ _, ?_, hs.ports, hs.source⟩
  have hb := hs.backed
  rw [backed_eq_kindAt, List.all_eq_true] at hb ⊢
  intro c hc
  simp only [Memory.write] at hc
  split at hc
  · exact hb c (Memory.mem_erase hc)
  · rcases Memory.mem_insert hc with rfl | hc
    · simp [hk, hp]
    · exact hb c hc

theorem inv_readAt {s t : State} {a : Nat} {v : Byte} (hs : Inv s) (h : readAt s a = .ok (v, t)) : Inv t := by
  rcases readAt_cases h with ⟨_, _, _, _, rfl⟩ | ⟨_, _, k, n, _, rfl⟩
  · exact hs
  · exact inv_setMemInternal hs k n

theorem inv_writeAt {s t : State} {a : Nat} {v : Byte} (hs : Inv s) (h : writeAt s a v = .ok t) : Inv t := by
  rcases writeAt_cases h with ⟨hk, rfl⟩ | ⟨_, k, n, _, rfl⟩
  · exact inv_write hs v hk rfl
  · exact inv_setMemInternal hs k n

end Sys2Proof.Machine
end

