-- ==== Sys2Proof/Laws/Host.lean ====
section
/-! SUPPORT. What the host's operations of Boot.lean do: the registers it writes, and what each operation leaves alone. -/

namespace Sys2Proof.Machine

/-! ## Registers by name -/

section

variable (g : Regs) (s : State)

@[simp] theorem Regs.byte_setByte_same (r : BankReg) (v : Byte) : (g.setByte r v).byte r = v := by cases r <;> rfl

theorem Regs.byte_setByte_other {r q : BankReg} (v : Byte) (h : q ≠ r) : (g.setByte r v).byte q = g.byte q := by
  cases r <;> cases q <;> first | rfl | exact absurd rfl h

@[simp] theorem Regs.word_setWord_same (p : StackPair) (v : Word) : (g.setWord p v).word p = v := by
  cases p <;> simp [setWord, word]

theorem Regs.word_setWord_other {p q : StackPair} (v : Word) (h : q ≠ p) : (g.setWord p v).word q = g.word q := by
  cases p <;> cases q <;> first | rfl | exact absurd rfl h

@[simp] theorem State.bank_setBank_same (k : Bank) : (s.setBank k g).bank k = g := by cases k <;> rfl

theorem State.bank_setBank_other {k j : Bank} (h : j ≠ k) : (s.setBank k g).bank j = s.bank j := by
  cases k <;> cases j <;> first | rfl | exact absurd rfl h

@[simp] theorem State.byteReg_setByteReg_same (n : ByteReg) (v : Byte) : (s.setByteReg n v).byteReg n = v := by
  cases n <;> simp [setByteReg, byteReg]

@[simp] theorem State.wordReg_setWordReg_same (n : WordReg) (v : Word) : (s.setWordReg n v).wordReg n = v := by
  cases n <;> simp [setWordReg, wordReg]

/-! ## A register write changes no memory, no device and no field of the model's own -/

variable (w : RegWrite)

@[simp] theorem State.setRegister_mem : (s.setRegister w).mem = s.mem := by
  rcases w with ⟨⟨k, r⟩ | _ | _, v⟩ | ⟨⟨k, p⟩ | _ | _ | _ | _, v⟩ | _ | _ | _ | _ <;> first | rfl | (cases k <;> rfl)

@[simp] theorem State.setRegister_memdevs : (s.setRegister w).memdevs = s.memdevs := by
  rcases w with ⟨⟨k, r⟩ | _ | _, v⟩ | ⟨⟨k, p⟩ | _ | _ | _ | _, v⟩ | _ | _ | _ | _ <;> first | rfl | (cases k <;> rfl)

@[simp] theorem State.setRegister_iodevs : (s.setRegister w).iodevs = s.iodevs := by
  rcases w with ⟨⟨k, r⟩ | _ | _, v⟩ | ⟨⟨k, p⟩ | _ | _ | _ | _, v⟩ | _ | _ | _ | _ <;> first | rfl | (cases k <;> rfl)

@[simp] theorem State.setRegister_source : (s.setRegister w).source = s.source := by
  rcases w with ⟨⟨k, r⟩ | _ | _, v⟩ | ⟨⟨k, p⟩ | _ | _ | _ | _, v⟩ | _ | _ | _ | _ <;> first | rfl | (cases k <;> rfl)

@[simp] theorem State.setRegister_free : (s.setRegister w).free = s.free := by
  rcases w with ⟨⟨k, r⟩ | _ | _, v⟩ | ⟨⟨k, p⟩ | _ | _ | _ | _, v⟩ | _ | _ | _ | _ <;> first | rfl | (cases k <;> rfl)

/-- No register write clears `HALTED` (R49). -/
theorem State.setRegister_halted (h : s.halted = true) : (s.setRegister w).halted = true := by
  rcases w with ⟨⟨k, r⟩ | _ | _, v⟩ | ⟨⟨k, p⟩ | _ | _ | _ | _, v⟩ | _ | _ | _ | _ <;> first | exact h | rfl | (cases k <;> exact h)

end

/-! ## The memory operations of the host -/

/-- A forced write changes one RAM or ROM byte, or one custom device's internal state. -/
theorem memForce_cases {s t : State} {a : Nat} {v : Byte} (h : memForce s a v = .ok t) :
    (∃ l, resolve s.memdevs a = some l ∧ plainKind l.dev.kind = true ∧ t = { s with mem := s.mem.write a v })
    ∨ ∃ k n, t = s.setMemInternal k n := by
  simp only [memForce] at h
  split at h
  · cases h
  · next l hl =>
    split at h
    · next hk => cases h; exact .inl ⟨l, hl, by rw [hk]; rfl, rfl⟩
    · next hk => cases h; exact .inl ⟨l, hl, by rw [hk]; rfl, rfl⟩
    · split at h
      · cases h; exact .inr ⟨_, _, rfl⟩
      · cases h

/-- `load` is a series of byte writes: what every successful write keeps, `load` keeps. -/
theorem loadFrom_keeps {P : State → Prop} (hw : ∀ s t a v, P s → writeAt s a v = .ok t → P t) (bytes : List Byte) :
    ∀ (i : Nat) (s : State), P s → P (loadFrom i bytes s).2 := by
  induction bytes with
  | nil => exact fun _ _ h => h
  | cons v vs ih =>
    intro i s h
    simp only [loadFrom]
    split
    · next t ht => exact ih _ _ (hw _ _ _ _ h ht)
    · exact ih _ _ h
    · exact ih _ _ h

/-- `save` is a series of byte reads: what every successful read keeps, `save` keeps. -/
theorem saveFrom_keeps {P : State → Prop} (hr : ∀ s t a v, P s → readAt s a = .ok (v, t) → P t) :
    ∀ (count i : Nat) (s t : State) (bytes : List Byte), P s → saveFrom count i s = .ok (bytes, t) → P t := by
  intro count
  induction count with
  | zero =>
    intro i s t bytes h hs
    cases hs
    exact h
  | succ k ih =>
    intro i s t bytes h hs
    simp only [saveFrom] at hs
    split at hs
    · cases hs
    · next v s1 h1 =>
      split at hs
      · cases hs
      · next vs s2 h2 =>
        cases hs
        exact ih _ _ _ _ (hr _ _ _ _ h h1) h2

/-- What each operation of the host keeps: the induction over all of them, once. Forced writes and resets need to be looked at
only where the operation is one. -/
theorem hostOp_keeps {P : State → Prop} {s t : State} {o : HostOp} (hreg : ∀ s w, P s → P (s.setRegister w))
    (hw : ∀ s t a v, P s → writeAt s a v = .ok t → P t) (hr : ∀ s t a v, P s → readAt s a = .ok (v, t) → P t)
    (hf : ∀ a v, o = .force a v → P s → memForce s a v = .ok t → P t)
    (hz : ∀ g, o = .reset g → P s → P (cpuReset g s)) (h : hostOp s o = .ok t) (hs : P s) : P t := by
  cases o with
  | write w => cases h; exact hreg s w hs
  | load bytes => cases h; exact loadFrom_keeps hw bytes 0 s hs
  | save =>
    simp only [hostOp, save] at h
    cases hv : saveFrom (totalSize s.memdevs) 0 s with
    | error f => rw [hv] at h; cases h
    | ok r => rw [hv] at h; cases h; exact saveFrom_keeps hr _ _ _ _ _ hs hv
  | memRead a =>
    simp only [hostOp] at h
    cases hv : readAt s a with
    | error f => rw [hv] at h; cases h
    | ok r => rw [hv] at h; cases h; exact hr _ _ _ _ hs hv
  | memWrite a v => exact hw s t a v hs h
  | force a v => exact hf a v rfl hs h
  | reset g => cases h; exact hz g rfl hs

end Sys2Proof.Machine
end

