-- ==== Sys2Proof/Laws/PerInstr.lean ====
section
/-! SUPPORT. One law per instruction, as syntax: its encoding has the length of its format (R107, R108). -/

namespace Sys2Proof.Laws.EncodedLength

/-- The encoding of `i` is as long as the format the opcode table gives it (R107). -/
def Statement (i : Instr) : Prop := (encode i).length = i.format.length

theorem ldRegReg (r : Reg8) (r1 : Reg8) : Statement (.ldRegReg r r1) := rfl
theorem ldRegImm (r : Reg8) (n : Byte) : Statement (.ldRegImm r n) := rfl
theorem ldRegIndHL (r : Reg8) : Statement (.ldRegIndHL r) := rfl
theorem ldRegIndIX (r : Reg8) (d : Byte) : Statement (.ldRegIndIX r d) := rfl
theorem ldRegIndIY (r : Reg8) (d : Byte) : Statement (.ldRegIndIY r d) := rfl
theorem ldIndHLReg (r : Reg8) : Statement (.ldIndHLReg r) := rfl
theorem ldIndIXReg (d : Byte) (r : Reg8) : Statement (.ldIndIXReg d r) := rfl
theorem ldIndIYReg (d : Byte) (r : Reg8) : Statement (.ldIndIYReg d r) := rfl
theorem ldIndHLImm (n : Byte) : Statement (.ldIndHLImm n) := rfl
theorem ldIndIXImm (d : Byte) (n : Byte) : Statement (.ldIndIXImm d n) := rfl
theorem ldIndIYImm (d : Byte) (n : Byte) : Statement (.ldIndIYImm d n) := rfl
theorem ldAIndBC : Statement .ldAIndBC := rfl
theorem ldAIndDE : Statement .ldAIndDE := rfl
theorem ldAIndNN (nn : Word) : Statement (.ldAIndNN nn) := rfl
theorem ldIndBCA : Statement .ldIndBCA := rfl
theorem ldIndDEA : Statement .ldIndDEA := rfl
theorem ldIndNNA (nn : Word) : Statement (.ldIndNNA nn) := rfl
theorem ldAI : Statement .ldAI := rfl
theorem ldAR : Statement .ldAR := rfl
theorem ldIA : Statement .ldIA := rfl
theorem ldRA : Statement .ldRA := rfl
theorem ldPairImm (dd : Pair) (nn : Word) : Statement (.ldPairImm dd nn) := rfl
theorem ldIXImm (nn : Word) : Statement (.ldIXImm nn) := rfl
theorem ldIYImm (nn : Word) : Statement (.ldIYImm nn) := rfl
theorem ldHLIndNN (nn : Word) : Statement (.ldHLIndNN nn) := rfl
theorem ldPairIndNN (dd : Pair) (nn : Word) : Statement (.ldPairIndNN dd nn) := rfl
theorem ldIXIndNN (nn : Word) : Statement (.ldIXIndNN nn) := rfl
theorem ldIYIndNN (nn : Word) : Statement (.ldIYIndNN nn) := rfl
theorem ldIndNNHL (nn : Word) : Statement (.ldIndNNHL nn) := rfl
theorem ldIndNNPair (nn : Word) (dd : Pair) : Statement (.ldIndNNPair nn dd) := rfl
theorem ldIndNNIX (nn : Word) : Statement (.ldIndNNIX nn) := rfl
theorem ldIndNNIY (nn : Word) : Statement (.ldIndNNIY nn) := rfl
theorem ldSPHL : Statement .ldSPHL := rfl
theorem ldSPIX : Statement .ldSPIX := rfl
theorem ldSPIY : Statement .ldSPIY := rfl
theorem pushPair (qq : StackPair) : Statement (.pushPair qq) := rfl
theorem pushIX : Statement .pushIX := rfl
theorem pushIY : Statement .pushIY := rfl
theorem popPair (qq : StackPair) : Statement (.popPair qq) := rfl
theorem popIX : Statement .popIX := rfl
theorem popIY : Statement .popIY := rfl
theorem exDEHL : Statement .exDEHL := rfl
theorem exAFAF : Statement .exAFAF := rfl
theorem exx : Statement .exx := rfl
theorem exIndSPHL : Statement .exIndSPHL := rfl
theorem exIndSPIX : Statement .exIndSPIX := rfl
theorem exIndSPIY : Statement .exIndSPIY := rfl
theorem ldi : Statement .ldi := rfl
theorem ldir : Statement .ldir := rfl
theorem ldd : Statement .ldd := rfl
theorem lddr : Statement .lddr := rfl
theorem cpi : Statement .cpi := rfl
theorem cpir : Statement .cpir := rfl
theorem cpd : Statement .cpd := rfl
theorem cpdr : Statement .cpdr := rfl
theorem addReg (r : Reg8) : Statement (.addReg r) := rfl
theorem addImm (n : Byte) : Statement (.addImm n) := rfl
theorem addIndHL : Statement .addIndHL := rfl
theorem addIndIX (d : Byte) : Statement (.addIndIX d) := rfl
theorem addIndIY (d : Byte) : Statement (.addIndIY d) := rfl
theorem adcReg (r : Reg8) : Statement (.adcReg r) := rfl
theorem adcImm (n : Byte) : Statement (.adcImm n) := rfl
theorem adcIndHL : Statement .adcIndHL := rfl
theorem adcIndIX (d : Byte) : Statement (.adcIndIX d) := rfl
theorem adcIndIY (d : Byte) : Statement (.adcIndIY d) := rfl
theorem subReg (r : Reg8) : Statement (.subReg r) := rfl
theorem subImm (n : Byte) : Statement (.subImm n) := rfl
theorem subIndHL : Statement .subIndHL := rfl
theorem subIndIX (d : Byte) : Statement (.subIndIX d) := rfl
theorem subIndIY (d : Byte) : Statement (.subIndIY d) := rfl
theorem sbcReg (r : Reg8) : Statement (.sbcReg r) := rfl
theorem sbcImm (n : Byte) : Statement (.sbcImm n) := rfl
theorem sbcIndHL : Statement .sbcIndHL := rfl
theorem sbcIndIX (d : Byte) : Statement (.sbcIndIX d) := rfl
theorem sbcIndIY (d : Byte) : Statement (.sbcIndIY d) := rfl
theorem andReg (r : Reg8) : Statement (.andReg r) := rfl
theorem andImm (n : Byte) : Statement (.andImm n) := rfl
theorem andIndHL : Statement .andIndHL := rfl
theorem andIndIX (d : Byte) : Statement (.andIndIX d) := rfl
theorem andIndIY (d : Byte) : Statement (.andIndIY d) := rfl
theorem xorReg (r : Reg8) : Statement (.xorReg r) := rfl
theorem xorImm (n : Byte) : Statement (.xorImm n) := rfl
theorem xorIndHL : Statement .xorIndHL := rfl
theorem xorIndIX (d : Byte) : Statement (.xorIndIX d) := rfl
theorem xorIndIY (d : Byte) : Statement (.xorIndIY d) := rfl
theorem orReg (r : Reg8) : Statement (.orReg r) := rfl
theorem orImm (n : Byte) : Statement (.orImm n) := rfl
theorem orIndHL : Statement .orIndHL := rfl
theorem orIndIX (d : Byte) : Statement (.orIndIX d) := rfl
theorem orIndIY (d : Byte) : Statement (.orIndIY d) := rfl
theorem cpReg (r : Reg8) : Statement (.cpReg r) := rfl
theorem cpImm (n : Byte) : Statement (.cpImm n) := rfl
theorem cpIndHL : Statement .cpIndHL := rfl
theorem cpIndIX (d : Byte) : Statement (.cpIndIX d) := rfl
theorem cpIndIY (d : Byte) : Statement (.cpIndIY d) := rfl
theorem incReg (r : Reg8) : Statement (.incReg r) := rfl
theorem incIndHL : Statement .incIndHL := rfl
theorem incIndIX (d : Byte) : Statement (.incIndIX d) := rfl
theorem incIndIY (d : Byte) : Statement (.incIndIY d) := rfl
theorem decReg (r : Reg8) : Statement (.decReg r) := rfl
theorem decIndHL : Statement .decIndHL := rfl
theorem decIndIX (d : Byte) : Statement (.decIndIX d) := rfl
theorem decIndIY (d : Byte) : Statement (.decIndIY d) := rfl
theorem daa : Statement .daa := rfl
theorem cpl : Statement .cpl := rfl
theorem neg : Statement .neg := rfl
theorem ccf : Statement .ccf := rfl
theorem scf : Statement .scf := rfl
theorem nop : Statement .nop := rfl
theorem halt : Statement .halt := rfl
theorem di : Statement .di := rfl
theorem ei : Statement .ei := rfl
theorem im0 : Statement .im0 := rfl
theorem im1 : Statement .im1 := rfl
theorem im2 : Statement .im2 := rfl
theorem addHLPair (ss : Pair) : Statement (.addHLPair ss) := rfl
theorem adcHLPair (ss : Pair) : Statement (.adcHLPair ss) := rfl
theorem sbcHLPair (ss : Pair) : Statement (.sbcHLPair ss) := rfl
theorem addIXPair (pp : IXPair) : Statement (.addIXPair pp) := rfl
theorem addIYPair (rr : IYPair) : Statement (.addIYPair rr) := rfl
theorem incPair (ss : Pair) : Statement (.incPair ss) := rfl
theorem incIX : Statement .incIX := rfl
theorem incIY : Statement .incIY := rfl
theorem decPair (ss : Pair) : Statement (.decPair ss) := rfl
theorem decIX : Statement .decIX := rfl
theorem decIY : Statement .decIY := rfl
theorem rlca : Statement .rlca := rfl
theorem rla : Statement .rla := rfl
theorem rrca : Statement .rrca := rfl
theorem rra : Statement .rra := rfl
theorem rlcReg (r : Reg8) : Statement (.rlcReg r) := rfl
theorem rlcIndHL : Statement .rlcIndHL := rfl
theorem rlcIndIX (d : Byte) : Statement (.rlcIndIX d) := rfl
theorem rlcIndIY (d : Byte) : Statement (.rlcIndIY d) := rfl
theorem rrcReg (r : Reg8) : Statement (.rrcReg r) := rfl
theorem rrcIndHL : Statement .rrcIndHL := rfl
theorem rrcIndIX (d : Byte) : Statement (.rrcIndIX d) := rfl
theorem rrcIndIY (d : Byte) : Statement (.rrcIndIY d) := rfl
theorem rlReg (r : Reg8) : Statement (.rlReg r) := rfl
theorem rlIndHL : Statement .rlIndHL := rfl
theorem rlIndIX (d : Byte) : Statement (.rlIndIX d) := rfl
theorem rlIndIY (d : Byte) : Statement (.rlIndIY d) := rfl
theorem rrReg (r : Reg8) : Statement (.rrReg r) := rfl
theorem rrIndHL : Statement .rrIndHL := rfl
theorem rrIndIX (d : Byte) : Statement (.rrIndIX d) := rfl
theorem rrIndIY (d : Byte) : Statement (.rrIndIY d) := rfl
theorem slaReg (r : Reg8) : Statement (.slaReg r) := rfl
theorem slaIndHL : Statement .slaIndHL := rfl
theorem slaIndIX (d : Byte) : Statement (.slaIndIX d) := rfl
theorem slaIndIY (d : Byte) : Statement (.slaIndIY d) := rfl
theorem sraReg (r : Reg8) : Statement (.sraReg r) := rfl
theorem sraIndHL : Statement .sraIndHL := rfl
theorem sraIndIX (d : Byte) : Statement (.sraIndIX d) := rfl
theorem sraIndIY (d : Byte) : Statement (.sraIndIY d) := rfl
theorem srlReg (r : Reg8) : Statement (.srlReg r) := rfl
theorem srlIndHL : Statement .srlIndHL := rfl
theorem srlIndIX (d : Byte) : Statement (.srlIndIX d) := rfl
theorem srlIndIY (d : Byte) : Statement (.srlIndIY d) := rfl
theorem rld : Statement .rld := rfl
theorem rrd : Statement .rrd := rfl
theorem bitReg (b : BitVec 3) (r : Reg8) : Statement (.bitReg b r) := rfl
theorem bitIndHL (b : BitVec 3) : Statement (.bitIndHL b) := rfl
theorem bitIndIX (b : BitVec 3) (d : Byte) : Statement (.bitIndIX b d) := rfl
theorem bitIndIY (b : BitVec 3) (d : Byte) : Statement (.bitIndIY b d) := rfl
theorem setReg (b : BitVec 3) (r : Reg8) : Statement (.setReg b r) := rfl
theorem setIndHL (b : BitVec 3) : Statement (.setIndHL b) := rfl
theorem setIndIX (b : BitVec 3) (d : Byte) : Statement (.setIndIX b d) := rfl
theorem setIndIY (b : BitVec 3) (d : Byte) : Statement (.setIndIY b d) := rfl
theorem resReg (b : BitVec 3) (r : Reg8) : Statement (.resReg b r) := rfl
theorem resIndHL (b : BitVec 3) : Statement (.resIndHL b) := rfl
theorem resIndIX (b : BitVec 3) (d : Byte) : Statement (.resIndIX b d) := rfl
theorem resIndIY (b : BitVec 3) (d : Byte) : Statement (.resIndIY b d) := rfl
theorem jp (nn : Word) : Statement (.jp nn) := rfl
theorem jpCond (cc : Cond) (nn : Word) : Statement (.jpCond cc nn) := rfl
theorem jr (e : Byte) : Statement (.jr e) := rfl
theorem jrC (e : Byte) : Statement (.jrC e) := rfl
theorem jrNC (e : Byte) : Statement (.jrNC e) := rfl
theorem jrZ (e : Byte) : Statement (.jrZ e) := rfl
theorem jrNZ (e : Byte) : Statement (.jrNZ e) := rfl
theorem jpHL : Statement .jpHL := rfl
theorem jpIX : Statement .jpIX := rfl
theorem jpIY : Statement .jpIY := rfl
theorem djnz (e : Byte) : Statement (.djnz e) := rfl
theorem call (nn : Word) : Statement (.call nn) := rfl
theorem callCond (cc : Cond) (nn : Word) : Statement (.callCond cc nn) := rfl
theorem ret : Statement .ret := rfl
theorem retCond (cc : Cond) : Statement (.retCond cc) := rfl
theorem reti : Statement .reti := rfl
theorem retn : Statement .retn := rfl
theorem rst (t : BitVec 3) : Statement (.rst t) := rfl
theorem inAImm (n : Byte) : Statement (.inAImm n) := rfl
theorem inRegC (r : Reg8) : Statement (.inRegC r) := rfl
theorem ini : Statement .ini := rfl
theorem inir : Statement .inir := rfl
theorem ind : Statement .ind := rfl
theorem indr : Statement .indr := rfl
theorem outImmA (n : Byte) : Statement (.outImmA n) := rfl
theorem outCReg (r : Reg8) : Statement (.outCReg r) := rfl
theorem outi : Statement .outi := rfl
theorem otir : Statement .otir := rfl
theorem outd : Statement .outd := rfl
theorem otdr : Statement .otdr := rfl

end Sys2Proof.Laws.EncodedLength
end

