-- ==== Sys2Proof/Laws/Shapes.lean ====
section
/-! SUPPORT. The shapes of the statements (Safety.lean) for the shared operations of Ops.lean: what an instruction made of one
of them does, said once. A lemma takes the meaning as an equation, so that it holds of every instruction of the shape. -/

namespace Sys2Proof.Machine

/-! ## The end of an instruction, in the statements' words -/

theorem bumpR_eq_refreshed (r : Byte) : bumpR r = refreshed r := by
  revert r
  decide

theorem retireTo_eq_endedAt (s : State) (t : Word) : s.retireTo t = s.endedAt t := by
  simp [State.retireTo, State.endedAt, bumpR_eq_refreshed]

theorem npc_eq_nextPc (s : State) (len : Nat) : s.npc len = nextPc s len := by
  simp only [State.npc, nextPc]
  cases s.source <;> simp
  apply BitVec.eq_of_toNat_eq
  simp

/-- An instruction that ends in `t`, which has the `pc` and the source of `s`, goes on at the instruction after `s`'s. -/
theorem retire_eq_endedAt {s t : State} {len : Nat} (hs : t.source = s.source) (hp : t.pc = s.pc) :
    t.retire len = t.endedAt (nextPc s len) := by
  simp [State.retire, retireTo_eq_endedAt, npc_eq_nextPc, nextPc, hs, hp]

/-- As `retire_eq_endedAt`, for an outcome and a state given by an equation. -/
theorem next_retire {s t u : State} {len : Nat} (h : t = u) (hs : u.source = s.source) (hp : u.pc = s.pc) :
    (Host.Outcome.next (t.retire len) : Res) = .next (u.endedAt (nextPc s len)) := by
  rw [h, retire_eq_endedAt hs hp]

/-- The flag byte by its weights (R27). -/
theorem toByte_eq_flagByte (f : Flags) : f.toByte = flagByte f.s f.z f.y f.h f.x f.pv f.n f.c := by
  obtain ⟨s, z, y, h, x, pv, n, c⟩ := f
  revert s z y h x pv n c
  decide

/-! ## Accesses depend on memory and devices only -/

theorem ramAt_of_read {s t : State} {a : Word} (hf : ReadFrame s t) (h : RamAt s a) : RamAt t a := by
  obtain ⟨l, hl, hk⟩ := h
  have hka : kindAt t.memdevs a.toNat = some .ram := by
    rw [hf.2.2]
    simp [kindAt, hl, hk]
  simp only [kindAt, Option.map_eq_some_iff] at hka
  exact hka

/-- A byte write looks at the memory and the memory devices only. -/
theorem writeByte_local {s t : State} (hm : t.mem = s.mem) (hd : t.memdevs = s.memdevs) (a : Word) (v : Byte) :
    writeByte t a v = (writeByte s a v).map fun u => t.memOf u := by
  simp only [writeByte, writeAt, hm, hd]
  cases resolve s.memdevs a.toNat with
  | none => rfl
  | some l =>
    simp only
    split
    · rfl
    · split
      · simp [Except.map, State.memOf]
      · rfl
      · split
        · simp [Except.map, State.memOf, State.setMemInternal, hm, hd]
        · rfl

/-- A word write looks at the memory and the memory devices only. -/
theorem writeWord_local {s t : State} (hm : t.mem = s.mem) (hd : t.memdevs = s.memdevs) (a v : Word) :
    writeWord t a v = (writeWord s a v).map fun u => t.memOf u := by
  simp only [writeWord]
  rw [writeByte_local hm hd]
  cases writeByte s a (loByte v) with
  | error f => rfl
  | ok s1 =>
    simp only [Except.map]
    rw [writeByte_local (s := s1) (t := t.memOf s1) rfl rfl]
    cases writeByte s1 (a + 1#16) (hiByte v) <;> rfl

/-- A byte written after a read is stored where the statement says, and nowhere else. -/
theorem storedByte_of_write {s s1 t : State} {a : Word} {v : Byte} (hf : ReadFrame s s1) (h : writeByte s1 a v = .ok t) :
    StoredByte s t a v := by
  have e : s1.mem = s.mem := by rw [hf.1]
  refine ⟨fun k hk => by rw [(writeByte_frame h).2 k hk, e], fun hw hr => ?_⟩
  rw [writeByte_ram v (ramAt_of_read hf hr)] at h
  cases h
  rw [Memory.read_write (by rw [e]; exact hw), if_pos rfl]

/-- A word written after a read is stored where the statement says, low byte first, and nowhere else. -/
theorem storedWord_of_write {s s1 t : State} {a v : Word} (hf : ReadFrame s s1) (h : writeWord s1 a v = .ok t) :
    StoredWord s t a v := by
  have e : s1.mem = s.mem := by rw [hf.1]
  refine ⟨fun k hk hk' => by rw [(writeWord_frame h).2 k hk hk', e], fun hw h0 h1 => ?_⟩
  rw [writeWord_ram v (ramAt_of_read hf h0) (ramAt_of_read hf h1)] at h
  cases h
  have hne : (a + 1#16).toNat ≠ a.toNat := by
    intro h
    have := BitVec.eq_of_toNat_eq h
    revert this
    simp
  have hw' : s1.mem.wf = true := by rw [e]; exact hw
  have w1 := Memory.wf_write hw' a.toNat (loByte v)
  constructor
  · rw [Memory.read_write w1, if_neg (Ne.symm hne), Memory.read_write hw', if_pos rfl]
    rfl
  · rw [Memory.read_write w1, if_pos rfl]
    rfl

/-! ## Shapes -/

section

variable {i : Instr} {s : State} {a : Word} {len : Nat}

theorem takesByte_of_loadByte {k : Byte → State → State} {res : Byte → Regs} (hx : exec i s = loadByte s a len k)
    (hk : ∀ v m, k v { s with memdevs := m } = { s with main := res v, memdevs := m }) :
    TakesByte i s (readByte s a) len res := by
  constructor
  · intro v s1 h
    have f := (readByte_frame h).1
    rw [hx, loadByte, h, andThen_ok]
    refine next_retire ?_ rfl rfl
    rw [f]
    exact hk v _
  · intro f h
    rw [hx, loadByte, h, andThen_error]

theorem takesByte_of_register {v : Byte} {t : State} {res : Byte → Regs} (hx : exec i s = .next (t.retire len))
    (ht : t = { s with main := res v }) : TakesByte i s (.ok (v, s)) len res := by
  constructor
  · intro w s1 h
    cases h
    rw [hx]
    exact next_retire ht rfl rfl
  · intro f h
    cases h

theorem storesByte_of_storeByte {v : Byte} (hx : exec i s = storeByte s a len v) : StoresByte i s a v len := by
  constructor
  · intro t h
    refine ⟨?_, storedByte_of_write (.refl s) h⟩
    rw [hx, storeByte, h, andThen_ok]
    exact next_retire (writeByte_frame h).1.1 rfl rfl
  · intro f h
    rw [hx, storeByte, h, andThen_error]

theorem modifiesByte_of_modifyByte {f g : Byte → Byte} (hx : exec i s = modifyByte s a len f) (hg : ∀ v, f v = g v) :
    ModifiesByte i s a len fun v => (g v, s.main) := by
  refine ⟨?_, ?_, ?_⟩
  · intro v s1 s2 hr hw
    have f1 := readByte_frame hr
    refine ⟨?_, storedByte_of_write f1 hw⟩
    simp only at hw
    rw [hx, modifyByte, hr, andThen_ok]
    simp only [hg, hw, andThen_ok]
    exact next_retire (f1.write.trans (writeByte_frame hw).1).1 rfl rfl
  · intro f h
    rw [hx, modifyByte, h, andThen_error]
  · intro v s1 f hr hw
    simp only at hw
    rw [hx, modifyByte, hr, andThen_ok]
    simp only [hg, hw, andThen_error]

theorem modifiesByte_of_modifyByteFlags {f : Byte → Byte × Flags} {res : Byte → Byte × Regs}
    (hx : exec i s = modifyByteFlags s a len f) (hv : ∀ v, (f v).1 = (res v).1)
    (hf : ∀ v, { s.main with f := (f v).2.toByte } = (res v).2) : ModifiesByte i s a len res := by
  refine ⟨?_, ?_, ?_⟩
  · intro v s1 s2 hr hw
    have f1 := readByte_frame hr
    have f2 := (f1.write.trans (writeByte_frame hw).1).1
    refine ⟨?_, storedByte_of_write f1 hw⟩
    rw [hx, modifyByteFlags, hr, andThen_ok]
    simp only [hv, hw, andThen_ok]
    refine next_retire ?_ rfl rfl
    rw [f2, ← hf]
    rfl
  · intro f h
    rw [hx, modifyByteFlags, h, andThen_error]
  · intro v s1 f hr hw
    rw [hx, modifyByteFlags, hr, andThen_ok]
    simp only [hv, hw, andThen_error]

theorem loadsWord_of_loadWord {k dest : Word → State → State} (hx : exec i s = loadWord s a len k)
    (hk : ∀ v m, k v { s with memdevs := m } = dest v { s with memdevs := m })
    (hd : ∀ v u, (dest v u).source = u.source ∧ (dest v u).pc = u.pc) : LoadsWord i s a len dest := by
  constructor
  · intro v s1 h
    have f := (readWord_frame h).1
    rw [hx, loadWord, h, andThen_ok]
    refine next_retire ?_ ((hd v _).1.trans rfl) ((hd v _).2.trans rfl)
    rw [f]
    exact hk v _
  · intro f h
    rw [hx, loadWord, h, andThen_error]

theorem loadsWord_of_popWord {k dest : Word → State → State} (hx : exec i s = popWord s len k)
    (hk : ∀ v m, k v { s with memdevs := m, sp := s.sp + 2#16 } = dest v { s with memdevs := m })
    (hd : ∀ v u, (dest v u).source = u.source ∧ (dest v u).pc = u.pc) : LoadsWord i s s.sp len dest := by
  constructor
  · intro v s1 h
    have f := (readWord_frame h).1
    rw [hx, popWord, pop16, h]
    simp only [andThen_ok]
    refine next_retire ?_ ((hd v _).1.trans rfl) ((hd v _).2.trans rfl)
    rw [f]
    exact hk v _
  · intro f h
    rw [hx, popWord, pop16, h]
    rfl

theorem storesWord_of_storeWord {v : Word} (hx : exec i s = storeWord s a len v) :
    StoresWord i s a v s.sp (nextPc s len) := by
  constructor
  · intro t h
    refine ⟨?_, storedWord_of_write (.refl s) h⟩
    rw [hx, storeWord, h, andThen_ok]
    exact next_retire (writeWord_frame h).1.1 rfl rfl
  · intro f h
    rw [hx, storeWord, h, andThen_error]

/-- What a push leaves, in terms of a word write on the state before it. -/
theorem push16_eq (s : State) (v : Word) :
    push16 s v = (writeWord s (s.sp - 2#16) v).map fun u => ({ s with sp := s.sp - 2#16 } : State).memOf u :=
  writeWord_local (s := s) (t := { s with sp := s.sp - 2#16 }) rfl rfl _ _

theorem storesWord_of_pushWord {v : Word} (hx : exec i s = pushWord s len v) :
    StoresWord i s (s.sp - 2#16) v (s.sp - 2#16) (nextPc s len) := by
  constructor
  · intro t h
    refine ⟨?_, storedWord_of_write (.refl s) h⟩
    rw [hx, pushWord, push16_eq, h]
    exact next_retire rfl rfl rfl
  · intro f h
    rw [hx, pushWord, push16_eq, h]
    rfl

theorem storesWord_of_callTo {target : Word} (hx : exec i s = callTo s len target) :
    StoresWord i s (s.sp - 2#16) (nextPc s len) (s.sp - 2#16) target := by
  constructor
  · intro t h
    refine ⟨?_, storedWord_of_write (.refl s) h⟩
    rw [hx, callTo, npc_eq_nextPc, push16_eq, h]
    simp only [Except.map, andThen_ok, retireTo_eq_endedAt]
  · intro f h
    rw [hx, callTo, npc_eq_nextPc, push16_eq, h]
    rfl

theorem returnsTo_of_popPc {g : State → State} {iff1 : Bool} (hx : exec i s = andThen (popPc s) fun s1 => .next (g s1))
    (hg : ∀ v m, g (({ s with sp := s.sp + 2#16, memdevs := m } : State).endedAt v)
      = ({ s with sp := s.sp + 2#16, memdevs := m, iff1 := iff1 } : State).endedAt v) : ReturnsTo i s iff1 := by
  constructor
  · intro v s1 h
    have f := (readWord_frame h).1
    rw [hx, popPc, pop16, h]
    simp only [andThen_ok]
    rw [retireTo_eq_endedAt, f, hg]
  · intro f h
    rw [hx, popPc, pop16, h]
    rfl

theorem exchangesTop_of_exchangeStackTop {v : Word} {dest : Word → State → State}
    (hx : exec i s = exchangeStackTop s len v dest)
    (hd : ∀ v u, (dest v u).source = u.source ∧ (dest v u).pc = u.pc) : ExchangesTop i s v len dest := by
  refine ⟨?_, ?_, ?_⟩
  · intro w s1 s2 hr hw
    have f1 := readWord_frame hr
    refine ⟨?_, storedWord_of_write f1 hw⟩
    rw [hx, exchangeStackTop, hr, andThen_ok]
    simp only [hw, andThen_ok]
    exact next_retire (congrArg (dest w) (f1.write.trans (writeWord_frame hw).1).1) ((hd w _).1.trans rfl)
      ((hd w _).2.trans rfl)
  · intro f h
    rw [hx, exchangeStackTop, h, andThen_error]
  · intro w s1 f hr hw
    rw [hx, exchangeStackTop, hr, andThen_ok]
    simp only [hw, andThen_error]

end

end Sys2Proof.Machine
end

