-- ==== Sys2Proof/Machine/Timing.lean ====
section
/-! DEFINITION. The T-state counts of R580 and R581. They are informational: "The machine has no clock and no instruction can
observe time", and no other file reads them (log entry 25). -/

namespace Sys2Proof

/-- The T-states of an instruction, and those when its branch is taken or the block instruction repeats (R581). -/
structure TStates where
  plain : Nat
  taken : Nat
deriving DecidableEq, Repr

/-- R581, by value. -/
def Instr.tstates : Instr → TStates
  | .ldRegReg .. | .exDEHL | .exAFAF | .exx | .addReg .. | .adcReg .. | .subReg .. | .sbcReg .. | .andReg ..
  | .xorReg .. | .orReg .. | .cpReg .. | .incReg .. | .decReg .. | .daa | .cpl | .ccf | .scf | .nop | .halt
  | .di | .ei | .rlca | .rla | .rrca | .rra | .jpHL => ⟨4, 4⟩
  | .retCond .. => ⟨5, 11⟩
  | .ldSPHL | .incPair .. | .decPair .. => ⟨6, 6⟩
  | .ldRegImm .. | .ldRegIndHL .. | .ldIndHLReg .. | .ldAIndBC | .ldAIndDE | .ldIndBCA | .ldIndDEA | .addImm ..
  | .addIndHL | .adcImm .. | .adcIndHL | .subImm .. | .subIndHL | .sbcImm .. | .sbcIndHL | .andImm ..
  | .andIndHL | .xorImm .. | .xorIndHL | .orImm .. | .orIndHL | .cpImm .. | .cpIndHL => ⟨7, 7⟩
  | .jrC .. | .jrNC .. | .jrZ .. | .jrNZ .. => ⟨7, 12⟩
  | .neg | .im0 | .im1 | .im2 | .rlcReg .. | .rrcReg .. | .rlReg .. | .rrReg .. | .slaReg .. | .sraReg ..
  | .srlReg .. | .bitReg .. | .setReg .. | .resReg .. | .jpIX | .jpIY => ⟨8, 8⟩
  | .djnz .. => ⟨8, 13⟩
  | .ldAI | .ldAR | .ldIA | .ldRA => ⟨9, 9⟩
  | .ldIndHLImm .. | .ldPairImm .. | .ldSPIX | .ldSPIY | .popPair .. | .incIX | .incIY | .decIX | .decIY
  | .jp .. | .jpCond .. | .ret => ⟨10, 10⟩
  | .callCond .. => ⟨10, 17⟩
  | .pushPair .. | .incIndHL | .decIndHL | .addHLPair .. | .rst .. | .inAImm .. | .outImmA .. => ⟨11, 11⟩
  | .bitIndHL .. | .jr .. | .inRegC .. | .outCReg .. => ⟨12, 12⟩
  | .ldAIndNN .. | .ldIndNNA .. => ⟨13, 13⟩
  | .ldIXImm .. | .ldIYImm .. | .popIX | .popIY | .reti | .retn => ⟨14, 14⟩
  | .pushIX | .pushIY | .adcHLPair .. | .sbcHLPair .. | .addIXPair .. | .addIYPair .. | .rlcIndHL | .rrcIndHL
  | .rlIndHL | .rrIndHL | .slaIndHL | .sraIndHL | .srlIndHL | .setIndHL .. | .resIndHL .. => ⟨15, 15⟩
  | .ldHLIndNN .. | .ldIndNNHL .. | .ldi | .ldd | .cpi | .cpd | .ini | .ind | .outi | .outd => ⟨16, 16⟩
  | .ldir | .lddr | .cpir | .cpdr | .inir | .indr | .otir | .otdr => ⟨16, 21⟩
  | .call .. => ⟨17, 17⟩
  | .rld | .rrd => ⟨18, 18⟩
  | .ldRegIndIX .. | .ldRegIndIY .. | .ldIndIXReg .. | .ldIndIYReg .. | .ldIndIXImm .. | .ldIndIYImm ..
  | .exIndSPHL | .addIndIX .. | .addIndIY .. | .adcIndIX .. | .adcIndIY .. | .subIndIX .. | .subIndIY ..
  | .sbcIndIX .. | .sbcIndIY .. | .andIndIX .. | .andIndIY .. | .xorIndIX .. | .xorIndIY .. | .orIndIX ..
  | .orIndIY .. | .cpIndIX .. | .cpIndIY .. => ⟨19, 19⟩
  | .ldPairIndNN .. | .ldIXIndNN .. | .ldIYIndNN .. | .ldIndNNPair .. | .ldIndNNIX .. | .ldIndNNIY ..
  | .bitIndIX .. | .bitIndIY .. => ⟨20, 20⟩
  | .exIndSPIX | .exIndSPIY | .incIndIX .. | .incIndIY .. | .decIndIX .. | .decIndIY .. | .rlcIndIX ..
  | .rlcIndIY .. | .rrcIndIX .. | .rrcIndIY .. | .rlIndIX .. | .rlIndIY .. | .rrIndIX .. | .rrIndIY ..
  | .slaIndIX .. | .slaIndIY .. | .sraIndIX .. | .sraIndIY .. | .srlIndIX .. | .srlIndIY .. | .setIndIX ..
  | .setIndIY .. | .resIndIX .. | .resIndIY .. => ⟨23, 23⟩

/-- The T-states of an interrupt entry: NMI 11, mode 1 13, mode 2 19 (R526, R581). -/
def Machine.Interrupt.tstates : Machine.Interrupt → Nat
  | .nmi => 11
  | .mode1 => 13
  | .mode2 _ => 19

/-- The T-states of a mode-0 entry: "the supplied instruction plus 2 T" (R518, R526). -/
def mode0TStates (i : Instr) : TStates := ⟨i.tstates.plain + 2, i.tstates.taken + 2⟩

end Sys2Proof
end

