-- ==== Sys2Proof/Tests/Slice0.lean ====
section
/-! SUPPORT. The model's own tests, and for every statement that has hypotheses a witness that they can be met. The expected
values come from the spec: the bit patterns of opcode_table.json, and the vectors of 95_test_vectors.md, whose names (`v35`,
`i4`, `f3`) the tests carry. -/

namespace Sys2Proof.Tests

open Sys2Proof Sys2Proof.Machine

/-! ## Helpers -/

/-- The state right after reset: every register zero, one RAM of 64 KiB. -/
abbrev z : State := State.reset

/-- `s` with code at 0x1000 and `pc` there. -/
def code (bs : List Byte) (s : State) : State := { s with pc := 0x1000, mem := s.mem.place 0x1000 bs }

/-- The outcome is a next state that meets `p`. -/
def ends (o : Res) (p : State → Bool) : Bool :=
  match o with
  | .next t => p t
  | .fault _ => false
  | .refused _ => false

/-- Every listed byte sequence decodes to the instruction beside it, with nothing left, and encodes back. -/
def decodesAll (l : List (Instr × List Byte)) : Bool :=
  l.all fun c => decide (decode c.2 = .ok c.1 []) && decide (encode c.1 = c.2)

/-- How many of the 256 bytes, put after `before` and followed by `after`, are admitted by the decoder. -/
def admitted (before after : List Byte) : Nat :=
  (List.range 256).countP fun k =>
    match decode (before ++ [BitVec.ofNat 8 k] ++ after) with
    | .ok _ _ => true
    | .incomplete => false
    | .invalid _ => false

/-! ## What WellFormed refuses -/

/-- A device that names one port twice does not claim a set (R84). -/
theorem test_wellFormed_refuses_repeated_port :
    iodevsWellFormed [⟨[0x10, 0x11, 0x10], .test 0 [] none 0⟩] = false := by decide

theorem test_wellFormed_portsAreSet_refuses : portsAreSet [0x10, 0x10] = false := by decide

/-- Two devices that claim one port (R85). -/
theorem test_wellFormed_refuses_shared_port :
    iodevsWellFormed [⟨[0x10], .test 0 [] none 0⟩, ⟨[0x11, 0x10], .test 0 [] none 0⟩] = false := by decide

theorem test_wellFormed_portsApart_refuses : portsApart [0x11, 0x10] [0x10] = false := by decide

theorem test_wellFormed_accepts :
    iodevsWellFormed [⟨[0x10], .test 0 [] none 0⟩, ⟨[0x11, 0x12], .test 0 [] none 0⟩] = true := by decide

/-- "conflicting ports are a construction-time error" (R85). -/
theorem test_construct_refuses_shared_port :
    construct false [⟨65536, .ram, 0⟩] [] [⟨[0x10], .test 0 [] none 0⟩, ⟨[0x10], .test 0 [] none 0⟩] [] = none := by
  decide

/-! ## Decoding: one word of every instruction -/

/-- 40_load8.md, from the bit patterns of opcode_table.json. -/
def wordsLoad8 : List (Instr × List Byte) := [
  (.ldRegReg .l .e, [0b01101011]),
  (.ldRegImm .c 0x4E, [0b00001110, 0b01001110]),
  (.ldRegIndHL .a, [0b01111110]),
  (.ldRegIndIX .h 0x85, [0b11011101, 0b01100110, 0b10000101]),
  (.ldRegIndIY .d 0x85, [0b11111101, 0b01010110, 0b10000101]),
  (.ldIndHLReg .c, [0b01110001]),
  (.ldIndIXReg 0x85 .a, [0b11011101, 0b01110111, 0b10000101]),
  (.ldIndIYReg 0x85 .h, [0b11111101, 0b01110100, 0b10000101]),
  (.ldIndHLImm 0x4E, [0b00110110, 0b01001110]),
  (.ldIndIXImm 0x85 0x4E, [0b11011101, 0b00110110, 0b10000101, 0b01001110]),
  (.ldIndIYImm 0x85 0x4E, [0b11111101, 0b00110110, 0b10000101, 0b01001110]),
  (.ldAIndBC, [0b00001010]),
  (.ldAIndDE, [0b00011010]),
  (.ldAIndNN 0x1234, [0b00111010, 0b00110100, 0b00010010]),
  (.ldIndBCA, [0b00000010]),
  (.ldIndDEA, [0b00010010]),
  (.ldIndNNA 0x1234, [0b00110010, 0b00110100, 0b00010010]),
  (.ldAI, [0b11101101, 0b01010111]),
  (.ldAR, [0b11101101, 0b01011111]),
  (.ldIA, [0b11101101, 0b01000111]),
  (.ldRA, [0b11101101, 0b01001111])]

theorem test_decode_load8 : decodesAll wordsLoad8 = true := by decide

/-- 41_load16.md, from the bit patterns of opcode_table.json. -/
def wordsLoad16 : List (Instr × List Byte) := [
  (.ldPairImm .sp 0x1234, [0b00110001, 0b00110100, 0b00010010]),
  (.ldIXImm 0x1234, [0b11011101, 0b00100001, 0b00110100, 0b00010010]),
  (.ldIYImm 0x1234, [0b11111101, 0b00100001, 0b00110100, 0b00010010]),
  (.ldHLIndNN 0x1234, [0b00101010, 0b00110100, 0b00010010]),
  (.ldPairIndNN .bc 0x1234, [0b11101101, 0b01001011, 0b00110100, 0b00010010]),
  (.ldIXIndNN 0x1234, [0b11011101, 0b00101010, 0b00110100, 0b00010010]),
  (.ldIYIndNN 0x1234, [0b11111101, 0b00101010, 0b00110100, 0b00010010]),
  (.ldIndNNHL 0x1234, [0b00100010, 0b00110100, 0b00010010]),
  (.ldIndNNPair 0x1234 .de, [0b11101101, 0b01010011, 0b00110100, 0b00010010]),
  (.ldIndNNIX 0x1234, [0b11011101, 0b00100010, 0b00110100, 0b00010010]),
  (.ldIndNNIY 0x1234, [0b11111101, 0b00100010, 0b00110100, 0b00010010]),
  (.ldSPHL, [0b11111001]),
  (.ldSPIX, [0b11011101, 0b11111001]),
  (.ldSPIY, [0b11111101, 0b11111001]),
  (.pushPair .hl, [0b11100101]),
  (.pushIX, [0b11011101, 0b11100101]),
  (.pushIY, [0b11111101, 0b11100101]),
  (.popPair .bc, [0b11000001]),
  (.popIX, [0b11011101, 0b11100001]),
  (.popIY, [0b11111101, 0b11100001])]

theorem test_decode_load16 : decodesAll wordsLoad16 = true := by decide

/-- 42_exchange_block.md, from the bit patterns of opcode_table.json. -/
def wordsExchangeBlock : List (Instr × List Byte) := [
  (.exDEHL, [0b11101011]),
  (.exAFAF, [0b00001000]),
  (.exx, [0b11011001]),
  (.exIndSPHL, [0b11100011]),
  (.exIndSPIX, [0b11011101, 0b11100011]),
  (.exIndSPIY, [0b11111101, 0b11100011]),
  (.ldi, [0b11101101, 0b10100000]),
  (.ldir, [0b11101101, 0b10110000]),
  (.ldd, [0b11101101, 0b10101000]),
  (.lddr, [0b11101101, 0b10111000]),
  (.cpi, [0b11101101, 0b10100001]),
  (.cpir, [0b11101101, 0b10110001]),
  (.cpd, [0b11101101, 0b10101001]),
  (.cpdr, [0b11101101, 0b10111001])]

theorem test_decode_exchange_block : decodesAll wordsExchangeBlock = true := by decide

/-- 43_alu8.md, from the bit patterns of opcode_table.json. -/
def wordsAlu81 : List (Instr × List Byte) := [
  (.addReg .b, [0b10000000]),
  (.addImm 0x4E, [0b11000110, 0b01001110]),
  (.addIndHL, [0b10000110]),
  (.addIndIX 0x85, [0b11011101, 0b10000110, 0b10000101]),
  (.addIndIY 0x85, [0b11111101, 0b10000110, 0b10000101]),
  (.adcReg .l, [0b10001101]),
  (.adcImm 0x4E, [0b11001110, 0b01001110]),
  (.adcIndHL, [0b10001110]),
  (.adcIndIX 0x85, [0b11011101, 0b10001110, 0b10000101]),
  (.adcIndIY 0x85, [0b11111101, 0b10001110, 0b10000101]),
  (.subReg .e, [0b10010011]),
  (.subImm 0x4E, [0b11010110, 0b01001110]),
  (.subIndHL, [0b10010110]),
  (.subIndIX 0x85, [0b11011101, 0b10010110, 0b10000101]),
  (.subIndIY 0x85, [0b11111101, 0b10010110, 0b10000101]),
  (.sbcReg .c, [0b10011001]),
  (.sbcImm 0x4E, [0b11011110, 0b01001110]),
  (.sbcIndHL, [0b10011110]),
  (.sbcIndIX 0x85, [0b11011101, 0b10011110, 0b10000101]),
  (.sbcIndIY 0x85, [0b11111101, 0b10011110, 0b10000101]),
  (.andReg .a, [0b10100111]),
  (.andImm 0x4E, [0b11100110, 0b01001110]),
  (.andIndHL, [0b10100110]),
  (.andIndIX 0x85, [0b11011101, 0b10100110, 0b10000101])]

theorem test_decode_alu8_1 : decodesAll wordsAlu81 = true := by decide

/-- 43_alu8.md, from the bit patterns of opcode_table.json. -/
def wordsAlu82 : List (Instr × List Byte) := [
  (.andIndIY 0x85, [0b11111101, 0b10100110, 0b10000101]),
  (.xorReg .h, [0b10101100]),
  (.xorImm 0x4E, [0b11101110, 0b01001110]),
  (.xorIndHL, [0b10101110]),
  (.xorIndIX 0x85, [0b11011101, 0b10101110, 0b10000101]),
  (.xorIndIY 0x85, [0b11111101, 0b10101110, 0b10000101]),
  (.orReg .e, [0b10110011]),
  (.orImm 0x4E, [0b11110110, 0b01001110]),
  (.orIndHL, [0b10110110]),
  (.orIndIX 0x85, [0b11011101, 0b10110110, 0b10000101]),
  (.orIndIY 0x85, [0b11111101, 0b10110110, 0b10000101]),
  (.cpReg .c, [0b10111001]),
  (.cpImm 0x4E, [0b11111110, 0b01001110]),
  (.cpIndHL, [0b10111110]),
  (.cpIndIX 0x85, [0b11011101, 0b10111110, 0b10000101]),
  (.cpIndIY 0x85, [0b11111101, 0b10111110, 0b10000101]),
  (.incReg .a, [0b00111100]),
  (.incIndHL, [0b00110100]),
  (.incIndIX 0x85, [0b11011101, 0b00110100, 0b10000101]),
  (.incIndIY 0x85, [0b11111101, 0b00110100, 0b10000101]),
  (.decReg .h, [0b00100101]),
  (.decIndHL, [0b00110101]),
  (.decIndIX 0x85, [0b11011101, 0b00110101, 0b10000101]),
  (.decIndIY 0x85, [0b11111101, 0b00110101, 0b10000101])]

theorem test_decode_alu8_2 : decodesAll wordsAlu82 = true := by decide

/-- 44_general_control.md, from the bit patterns of opcode_table.json. -/
def wordsGeneralControl : List (Instr × List Byte) := [
  (.daa, [0b00100111]),
  (.cpl, [0b00101111]),
  (.neg, [0b11101101, 0b01000100]),
  (.ccf, [0b00111111]),
  (.scf, [0b00110111]),
  (.nop, [0b00000000]),
  (.halt, [0b01110110]),
  (.di, [0b11110011]),
  (.ei, [0b11111011]),
  (.im0, [0b11101101, 0b01000110]),
  (.im1, [0b11101101, 0b01010110]),
  (.im2, [0b11101101, 0b01011110])]

theorem test_decode_general_control : decodesAll wordsGeneralControl = true := by decide

/-- 45_alu16.md, from the bit patterns of opcode_table.json. -/
def wordsAlu16 : List (Instr × List Byte) := [
  (.addHLPair .bc, [0b00001001]),
  (.adcHLPair .de, [0b11101101, 0b01011010]),
  (.sbcHLPair .hl, [0b11101101, 0b01100010]),
  (.addIXPair .bc, [0b11011101, 0b00001001]),
  (.addIYPair .de, [0b11111101, 0b00011001]),
  (.incPair .hl, [0b00100011]),
  (.incIX, [0b11011101, 0b00100011]),
  (.incIY, [0b11111101, 0b00100011]),
  (.decPair .sp, [0b00111011]),
  (.decIX, [0b11011101, 0b00101011]),
  (.decIY, [0b11111101, 0b00101011])]

theorem test_decode_alu16 : decodesAll wordsAlu16 = true := by decide

/-- 46_rotate_shift.md, from the bit patterns of opcode_table.json. -/
def wordsRotateShift1 : List (Instr × List Byte) := [
  (.rlca, [0b00000111]),
  (.rla, [0b00010111]),
  (.rrca, [0b00001111]),
  (.rra, [0b00011111]),
  (.rlcReg .e, [0b11001011, 0b00000011]),
  (.rlcIndHL, [0b11001011, 0b00000110]),
  (.rlcIndIX 0x85, [0b11011101, 0b11001011, 0b10000101, 0b00000110]),
  (.rlcIndIY 0x85, [0b11111101, 0b11001011, 0b10000101, 0b00000110]),
  (.rrcReg .c, [0b11001011, 0b00001001]),
  (.rrcIndHL, [0b11001011, 0b00001110]),
  (.rrcIndIX 0x85, [0b11011101, 0b11001011, 0b10000101, 0b00001110]),
  (.rrcIndIY 0x85, [0b11111101, 0b11001011, 0b10000101, 0b00001110]),
  (.rlReg .a, [0b11001011, 0b00010111]),
  (.rlIndHL, [0b11001011, 0b00010110]),
  (.rlIndIX 0x85, [0b11011101, 0b11001011, 0b10000101, 0b00010110]),
  (.rlIndIY 0x85, [0b11111101, 0b11001011, 0b10000101, 0b00010110]),
  (.rrReg .l, [0b11001011, 0b00011101]),
  (.rrIndHL, [0b11001011, 0b00011110]),
  (.rrIndIX 0x85, [0b11011101, 0b11001011, 0b10000101, 0b00011110]),
  (.rrIndIY 0x85, [0b11111101, 0b11001011, 0b10000101, 0b00011110]),
  (.slaReg .e, [0b11001011, 0b00100011]),
  (.slaIndHL, [0b11001011, 0b00100110]),
  (.slaIndIX 0x85, [0b11011101, 0b11001011, 0b10000101, 0b00100110]),
  (.slaIndIY 0x85, [0b11111101, 0b11001011, 0b10000101, 0b00100110])]

theorem test_decode_rotate_shift_1 : decodesAll wordsRotateShift1 = true := by decide

/-- 46_rotate_shift.md, from the bit patterns of opcode_table.json. -/
def wordsRotateShift2 : List (Instr × List Byte) := [
  (.sraReg .c, [0b11001011, 0b00101001]),
  (.sraIndHL, [0b11001011, 0b00101110]),
  (.sraIndIX 0x85, [0b11011101, 0b11001011, 0b10000101, 0b00101110]),
  (.sraIndIY 0x85, [0b11111101, 0b11001011, 0b10000101, 0b00101110]),
  (.srlReg .a, [0b11001011, 0b00111111]),
  (.srlIndHL, [0b11001011, 0b00111110]),
  (.srlIndIX 0x85, [0b11011101, 0b11001011, 0b10000101, 0b00111110]),
  (.srlIndIY 0x85, [0b11111101, 0b11001011, 0b10000101, 0b00111110]),
  (.rld, [0b11101101, 0b01101111]),
  (.rrd, [0b11101101, 0b01100111])]

theorem test_decode_rotate_shift_2 : decodesAll wordsRotateShift2 = true := by decide

/-- 47_bit.md, from the bit patterns of opcode_table.json. -/
def wordsBit : List (Instr × List Byte) := [
  (.bitReg 0 .d, [0b11001011, 0b01000010]),
  (.bitIndHL 2, [0b11001011, 0b01010110]),
  (.bitIndIX 0 0x85, [0b11011101, 0b11001011, 0b10000101, 0b01000110]),
  (.bitIndIY 5 0x85, [0b11111101, 0b11001011, 0b10000101, 0b01101110]),
  (.setReg 2 .b, [0b11001011, 0b11010000]),
  (.setIndHL 4, [0b11001011, 0b11100110]),
  (.setIndIX 1 0x85, [0b11011101, 0b11001011, 0b10000101, 0b11001110]),
  (.setIndIY 6 0x85, [0b11111101, 0b11001011, 0b10000101, 0b11110110]),
  (.resReg 4 .l, [0b11001011, 0b10100101]),
  (.resIndHL 6, [0b11001011, 0b10110110]),
  (.resIndIX 3 0x85, [0b11011101, 0b11001011, 0b10000101, 0b10011110]),
  (.resIndIY 0 0x85, [0b11111101, 0b11001011, 0b10000101, 0b10000110])]

theorem test_decode_bit : decodesAll wordsBit = true := by decide

/-- 48_jump_call.md, from the bit patterns of opcode_table.json. -/
def wordsJumpCall : List (Instr × List Byte) := [
  (.jp 0x1234, [0b11000011, 0b00110100, 0b00010010]),
  (.jpCond .pe 0x1234, [0b11101010, 0b00110100, 0b00010010]),
  (.jr 0xB3, [0b00011000, 0b10110011]),
  (.jrC 0xB3, [0b00111000, 0b10110011]),
  (.jrNC 0xB3, [0b00110000, 0b10110011]),
  (.jrZ 0xB3, [0b00101000, 0b10110011]),
  (.jrNZ 0xB3, [0b00100000, 0b10110011]),
  (.jpHL, [0b11101001]),
  (.jpIX, [0b11011101, 0b11101001]),
  (.jpIY, [0b11111101, 0b11101001]),
  (.djnz 0xB3, [0b00010000, 0b10110011]),
  (.call 0x1234, [0b11001101, 0b00110100, 0b00010010]),
  (.callCond .nc 0x1234, [0b11010100, 0b00110100, 0b00010010]),
  (.ret, [0b11001001]),
  (.retCond .nz, [0b11000000]),
  (.reti, [0b11101101, 0b01001101]),
  (.retn, [0b11101101, 0b01000101]),
  (.rst 5, [0b11101111])]

theorem test_decode_jump_call : decodesAll wordsJumpCall = true := by decide

/-- 49_io.md, from the bit patterns of opcode_table.json. -/
def wordsIo : List (Instr × List Byte) := [
  (.inAImm 0x4E, [0b11011011, 0b01001110]),
  (.inRegC .h, [0b11101101, 0b01100000]),
  (.ini, [0b11101101, 0b10100010]),
  (.inir, [0b11101101, 0b10110010]),
  (.ind, [0b11101101, 0b10101010]),
  (.indr, [0b11101101, 0b10111010]),
  (.outImmA 0x4E, [0b11010011, 0b01001110]),
  (.outCReg .d, [0b11101101, 0b01010001]),
  (.outi, [0b11101101, 0b10100011]),
  (.otir, [0b11101101, 0b10110011]),
  (.outd, [0b11101101, 0b10101011]),
  (.otdr, [0b11101101, 0b10111011])]

theorem test_decode_io : decodesAll wordsIo = true := by decide

/-! ### The sizes of the seven pages (R123, R124) and the samples of R135 -/

/-- `30` is empty on every page a prefix opens, so the four prefixes do not count. -/
theorem test_page_base : admitted [] [0x30, 0x30] = 252 := by decide +kernel

theorem test_page_cb : admitted [0xCB] [] = 248 := by decide +kernel

theorem test_page_ed : admitted [0xED] [0x00, 0x00] = 58 := by decide +kernel

theorem test_page_dd : admitted [0xDD] [0x00, 0x00] = 39 := by decide +kernel

theorem test_page_fd : admitted [0xFD] [0x00, 0x00] = 39 := by decide +kernel

theorem test_page_ddcb : admitted [0xDD, 0xCB, 0x05] [] = 31 := by decide +kernel

theorem test_page_fdcb : admitted [0xFD, 0xCB, 0x05] [] = 31 := by decide +kernel

/-- The table's own numbering of `LD (IX+d),n`: DD 36 85 4E, first byte highest (R107). -/
theorem test_table_word_ldIndIXImm : decodeTableWord 32 0xDD36854E = some (.ldIndIXImm 0x85 0x4E) := by decide

/-- The same word, run as the first instruction after reset: 0x4E goes to 0x0000 - 123. -/
theorem test_fetch_word_ldIndIXImm :
    ends (step (z.withFetchWord 32 0xDD36854E)) (fun t => t.mem.read 0xFF85 == 0x4E && t.pc == 4) = true := by decide

/-! ## One step, from the vectors of 95_test_vectors.md

`F` is not tested after the block input and output instructions: two of its bits are free. -/

theorem test_v2_ldRegIndIX : ends (step (code [0xDD, 0x7E, 0xFF] { z with
      ix := 0x0000, mem := [(0xFFFF, 0x99)] })) (fun t =>
    t.main.a == 0x99 && t.pc == 0x1003) = true := by decide

theorem test_v3_ldIndIYImm : ends (step (code [0xFD, 0x36, 0x7F, 0xA5] { z with iy := 0xFFC0 })) (fun t =>
    t.pc == 0x1004 && t.mem.read 0x003F == 0xA5) = true := by decide

theorem test_v4_ldRegIndHL : ends (step (code [0x66] { z with
      main := { z.main with h := 0x23, l := 0x45 }, mem := [(0x2345, 0x77)] })) (fun t =>
    t.main.h == 0x77 && t.pc == 0x1001) = true := by decide

theorem test_v6_ldRegIndIX : ends (step (code [0xDD, 0x66, 0x02] { z with
      main := { z.main with h := 0x11, l := 0x11 }, ix := 0x3000, mem := [(0x3002, 0xAB)] })) (fun t =>
    t.main.h == 0xAB && t.pc == 0x1003) = true := by decide

theorem test_v7_ldAI : ends (step (code [0xED, 0x57] { z with
      main := { z.main with f := 0x01 }, i := 0x80, iff2 := true })) (fun t =>
    t.main.a == 0x80 && t.main.f == 0x85 && t.pc == 0x1002) = true := by decide

theorem test_v9_ldRA : ends (step (code [0xED, 0x4F] { z with main := { z.main with a := 0x80 } })) (fun t =>
    t.r == 0x81 && t.pc == 0x1002) = true := by decide

theorem test_v12_ldIndNNHL : ends (step (code [0x22, 0xFF, 0xFF] { z with
      main := { z.main with h := 0xBE, l := 0xEF } })) (fun t =>
    t.pc == 0x1003 && t.mem.read 0x0000 == 0xBE && t.mem.read 0xFFFF == 0xEF) = true := by decide

theorem test_v13_ldHLIndNN : ends (step (code [0x2A, 0xFF, 0xFF] { z with
      mem := [(0x0000, 0x12), (0xFFFF, 0x34)] })) (fun t =>
    t.main.hl == 0x1234 && t.pc == 0x1003) = true := by decide

theorem test_v16_pushPair : ends (step (code [0xC5] { z with
      main := { z.main with b := 0x12, c := 0x34 }, sp := 0x0001 })) (fun t =>
    t.sp == 0xFFFF && t.pc == 0x1001 && t.mem.read 0x0000 == 0x12 && t.mem.read 0xFFFF == 0x34) = true := by decide

theorem test_v17_popPair : ends (step (code [0xF1] { z with
      sp := 0x3000, mem := [(0x3000, 0xFF), (0x3001, 0x12)] })) (fun t =>
    t.main.a == 0x12 && t.main.f == 0xFF && t.sp == 0x3002 && t.pc == 0x1001) = true := by decide

theorem test_v19_ldSPIX : ends (step (code [0xDD, 0xF9] { z with ix := 0xABCD })) (fun t =>
    t.sp == 0xABCD && t.pc == 0x1002) = true := by decide

theorem test_v20_popIY : ends (step (code [0xFD, 0xE1] { z with
      sp := 0xFFFF, mem := [(0x0000, 0x22), (0xFFFF, 0x11)] })) (fun t =>
    t.iy == 0x2211 && t.sp == 0x0001 && t.pc == 0x1002) = true := by decide

theorem test_v25_exIndSPHL : ends (step (code [0xE3] { z with
      main := { z.main with h := 0xAA, l := 0xBB }, sp := 0x3000, mem := [(0x3000, 0x11), (0x3001,
      0x22)] })) (fun t =>
    t.main.hl == 0x2211 && t.pc == 0x1001 && t.mem.read 0x3000 == 0xBB &&
    t.mem.read 0x3001 == 0xAA) = true := by decide

theorem test_v26_exIndSPIX : ends (step (code [0xDD, 0xE3] { z with
      ix := 0xAABB, sp := 0xFFFF, mem := [(0x0000, 0x22), (0xFFFF, 0x11)] })) (fun t =>
    t.ix == 0x2211 && t.pc == 0x1002 && t.mem.read 0x0000 == 0xAA && t.mem.read 0xFFFF == 0xBB) = true := by decide

theorem test_v27_ldi : ends (step (code [0xED, 0xA0] { z with
      main := { z.main with a := 0x02, f := 0xFF, b := 0x00, c := 0x01, d := 0x30, e := 0x00, h := 0x20, l := 0x00 },
      mem := [(0x2000, 0x08)] })) (fun t =>
    t.main.f == 0xE9 && t.main.c == 0x00 && t.main.e == 0x01 && t.main.l == 0x01 && t.pc == 0x1002 &&
    t.mem.read 0x3000 == 0x08) = true := by decide

theorem test_v29_ldir : ends (step (code [0xED, 0xB0] { z with
      main := { z.main with b := 0x00, c := 0x00, d := 0x30, e := 0x00, h := 0x20, l := 0x00 }, mem := [(0x2000,
      0x55)] })) (fun t =>
    t.main.f == 0x04 && t.main.bc == 0xFFFF && t.main.e == 0x01 && t.main.l == 0x01 &&
    t.mem.read 0x3000 == 0x55) = true := by decide

theorem test_v31_cpi : ends (step (code [0xED, 0xA1] { z with
      main := { z.main with a := 0x41, b := 0x00, c := 0x02, h := 0x20, l := 0x00 }, mem := [(0x2000,
      0x41)] })) (fun t =>
    t.main.f == 0x46 && t.main.c == 0x01 && t.main.l == 0x01 && t.pc == 0x1002) = true := by decide

theorem test_v33_cpdr : ends (step (code [0xED, 0xB9] { z with
      main := { z.main with a := 0x33, b := 0x00, c := 0x01, h := 0x20, l := 0x00 }, mem := [] })) (fun t =>
    t.main.f == 0x22 && t.main.c == 0x00 && t.main.hl == 0x1FFF && t.pc == 0x1002) = true := by decide

theorem test_v34_cpi : ends (step (code [0xED, 0xA1] { z with
      main := { z.main with a := 0x10, f := 0x01, b := 0x00, c := 0x01, h := 0x20, l := 0x00 }, mem := [(0x2000,
      0x01)] })) (fun t =>
    t.main.f == 0x1B && t.main.c == 0x00 && t.main.l == 0x01 && t.pc == 0x1002) = true := by decide

theorem test_v35_addImm : ends (step (code [0xC6, 0x01] { z with main := { z.main with a := 0x7F } })) (fun t =>
    t.main.a == 0x80 && t.main.f == 0x94 && t.pc == 0x1002) = true := by decide

theorem test_v37_adcImm : ends (step (code [0xCE, 0x0F] { z with
      main := { z.main with a := 0xF0, f := 0x01 } })) (fun t =>
    t.main.a == 0x00 && t.main.f == 0x51 && t.pc == 0x1002) = true := by decide

theorem test_v39_subImm : ends (step (code [0xD6, 0x01] { z with main := { z.main with a := 0x00 } })) (fun t =>
    t.main.a == 0xFF && t.main.f == 0xBB && t.pc == 0x1002) = true := by decide

theorem test_v40_subImm : ends (step (code [0xD6, 0x01] { z with main := { z.main with a := 0x80 } })) (fun t =>
    t.main.a == 0x7F && t.main.f == 0x3E && t.pc == 0x1002) = true := by decide

theorem test_v41_sbcImm : ends (step (code [0xDE, 0xFF] { z with
      main := { z.main with a := 0x00, f := 0x01 } })) (fun t =>
    t.main.f == 0x53 && t.pc == 0x1002) = true := by decide

theorem test_v44_cpImm : ends (step (code [0xFE, 0x80] { z with main := { z.main with a := 0x00 } })) (fun t =>
    t.main.f == 0x87 && t.pc == 0x1002) = true := by decide

theorem test_v45_andImm : ends (step (code [0xE6, 0x0F] { z with main := { z.main with a := 0xF5 } })) (fun t =>
    t.main.a == 0x05 && t.main.f == 0x14 && t.pc == 0x1002) = true := by decide

theorem test_v47_xorReg : ends (step (code [0xAF] { z with
      main := { z.main with a := 0xA5, f := 0xFF } })) (fun t =>
    t.main.a == 0x00 && t.main.f == 0x44 && t.pc == 0x1001) = true := by decide

theorem test_v49_incReg : ends (step (code [0x3C] { z with
      main := { z.main with a := 0x7F, f := 0x01 } })) (fun t =>
    t.main.a == 0x80 && t.main.f == 0x95 && t.pc == 0x1001) = true := by decide

theorem test_v52_decReg : ends (step (code [0x05] { z with
      main := { z.main with f := 0x01, b := 0x00 } })) (fun t =>
    t.main.f == 0xBB && t.main.b == 0xFF && t.pc == 0x1001) = true := by decide

theorem test_v54_decIndIX : ends (step (code [0xDD, 0x35, 0xFE] { z with
      ix := 0x2001, mem := [(0x1FFF, 0x01)] })) (fun t =>
    t.main.f == 0x42 && t.pc == 0x1003 && t.mem.read 0x1FFF == 0x00) = true := by decide

theorem test_v55_daa : ends (step (code [0x27] { z with
      main := { z.main with a := 0x9A, f := 0x00 } })) (fun t =>
    t.main.a == 0x00 && t.main.f == 0x55 && t.pc == 0x1001) = true := by decide

theorem test_v58_daa : ends (step (code [0x27] { z with
      main := { z.main with a := 0xFB, f := 0x13 } })) (fun t =>
    t.main.a == 0x95 && t.main.f == 0x87 && t.pc == 0x1001) = true := by decide

theorem test_v60_neg : ends (step (code [0xED, 0x44] { z with main := { z.main with a := 0x80 } })) (fun t =>
    t.main.f == 0x87 && t.pc == 0x1002) = true := by decide

theorem test_v63_cpl : ends (step (code [0x2F] { z with
      main := { z.main with a := 0x5A, f := 0xC5 } })) (fun t =>
    t.main.a == 0xA5 && t.main.f == 0xF7 && t.pc == 0x1001) = true := by decide

theorem test_v64_scf : ends (step (code [0x37] { z with
      main := { z.main with a := 0x28, f := 0xD6 } })) (fun t =>
    t.main.f == 0xED && t.pc == 0x1001) = true := by decide

theorem test_v65_ccf : ends (step (code [0x3F] { z with
      main := { z.main with a := 0x00, f := 0x01 } })) (fun t =>
    t.main.f == 0x10 && t.pc == 0x1001) = true := by decide

theorem test_v68_ei : ends (step (code [0xFB, 0xF3] z)) (fun t =>
    t.iff1 && t.iff2 && t.pc == 0x1001) = true := by decide

theorem test_v71_im2 : ends (step (code [0xED, 0x5E] { z with im := .im1 })) (fun t =>
    t.im == .im2 && t.pc == 0x1002) = true := by decide

theorem test_v73_addHLPair : ends (step (code [0x29] { z with
      main := { z.main with f := 0xC4, h := 0x80, l := 0x00 } })) (fun t =>
    t.main.f == 0xC5 && t.main.h == 0x00 && t.pc == 0x1001) = true := by decide

theorem test_v76_adcHLPair : ends (step (code [0xED, 0x5A] { z with
      main := { z.main with d := 0x00, e := 0x01, h := 0x7F, l := 0xFF } })) (fun t =>
    t.main.f == 0x94 && t.main.hl == 0x8000 && t.pc == 0x1002) = true := by decide

theorem test_v77_sbcHLPair : ends (step (code [0xED, 0x52] { z with
      main := { z.main with d := 0x00, e := 0x01, h := 0x80, l := 0x00 } })) (fun t =>
    t.main.f == 0x3E && t.main.hl == 0x7FFF && t.pc == 0x1002) = true := by decide

theorem test_v80_incPair : ends (step (code [0x03] { z with
      main := { z.main with f := 0xFF, b := 0xFF, c := 0xFF } })) (fun t =>
    t.main.bc == 0x0000 && t.pc == 0x1001) = true := by decide

theorem test_v82_addIXPair : ends (step (code [0xDD, 0x29] { z with ix := 0x4800 })) (fun t =>
    t.main.f == 0x10 && t.ix == 0x9000 && t.pc == 0x1002) = true := by decide

theorem test_v85_rlca : ends (step (code [0x07] { z with
      main := { z.main with a := 0x81, f := 0xC4 } })) (fun t =>
    t.main.a == 0x03 && t.main.f == 0xC5 && t.pc == 0x1001) = true := by decide

theorem test_v88_rra : ends (step (code [0x1F] { z with
      main := { z.main with a := 0x01, f := 0x01 } })) (fun t =>
    t.main.a == 0x80 && t.pc == 0x1001) = true := by decide

theorem test_v91_sraReg : ends (step (code [0xCB, 0x2F] { z with main := { z.main with a := 0x81 } })) (fun t =>
    t.main.a == 0xC0 && t.main.f == 0x85 && t.pc == 0x1002) = true := by decide

theorem test_v92_srlReg : ends (step (code [0xCB, 0x3F] { z with main := { z.main with a := 0x01 } })) (fun t =>
    t.main.a == 0x00 && t.main.f == 0x45 && t.pc == 0x1002) = true := by decide

theorem test_v95_rrIndIX : ends (step (code [0xDD, 0xCB, 0x05, 0x1E] { z with
      main := { z.main with f := 0x01 }, ix := 0x2000, mem := [(0x2005, 0x02)] })) (fun t =>
    t.main.f == 0x84 && t.pc == 0x1004 && t.mem.read 0x2005 == 0x81) = true := by decide

theorem test_v97_rld : ends (step (code [0xED, 0x6F] { z with
      main := { z.main with a := 0x7A, h := 0x20, l := 0x00 }, mem := [(0x2000, 0x31)] })) (fun t =>
    t.main.a == 0x73 && t.main.f == 0x20 && t.pc == 0x1002 && t.mem.read 0x2000 == 0x1A) = true := by decide

theorem test_v98_rrd : ends (step (code [0xED, 0x67] { z with
      main := { z.main with a := 0x84, h := 0x20, l := 0x00 }, mem := [(0x2000, 0x20)] })) (fun t =>
    t.main.a == 0x80 && t.main.f == 0x80 && t.pc == 0x1002 && t.mem.read 0x2000 == 0x42) = true := by decide

theorem test_v100_bitReg : ends (step (code [0xCB, 0x47] { z with
      main := { z.main with a := 0x01, f := 0x01 } })) (fun t =>
    t.main.f == 0x11 && t.pc == 0x1002) = true := by decide

theorem test_v102_bitReg : ends (step (code [0xCB, 0x6F] { z with main := { z.main with a := 0xFF } })) (fun t =>
    t.main.f == 0x30 && t.pc == 0x1002) = true := by decide

theorem test_v103_bitIndIX : ends (step (code [0xDD, 0xCB, 0x03, 0x5E] { z with
      ix := 0x2000, mem := [(0x2003, 0x08)] })) (fun t =>
    t.main.f == 0x18 && t.pc == 0x1004) = true := by decide

theorem test_v104_setIndHL : ends (step (code [0xCB, 0xFE] { z with
      main := { z.main with h := 0x20, l := 0x00 }, mem := [(0x2000, 0x01)] })) (fun t =>
    t.pc == 0x1002 && t.mem.read 0x2000 == 0x81) = true := by decide

theorem test_v106_resIndIY : ends (step (code [0xFD, 0xCB, 0x80, 0x86] { z with
      iy := 0x2080, mem := [(0x2000, 0xFF)] })) (fun t =>
    t.pc == 0x1004 && t.mem.read 0x2000 == 0xFE) = true := by decide

theorem test_v110_jpCond : ends (step (code [0xC2, 0x34, 0x12] { z with
      main := { z.main with f := 0x40 } })) (fun t =>
    t.pc == 0x1003) = true := by decide

theorem test_v111_jpCond : ends (step (code [0xEA, 0x34, 0x12] { z with
      main := { z.main with f := 0x04 } })) (fun t =>
    t.pc == 0x1234) = true := by decide

theorem test_v114_jr : ends (step (code [0x18, 0x80] z)) (fun t =>
    t.pc == 0x0F82) = true := by decide

theorem test_v117_djnz : ends (step (code [0x10, 0xFE] { z with main := { z.main with b := 0x01 } })) (fun t =>
    t.main.b == 0x00 && t.pc == 0x1002) = true := by decide

theorem test_v118_djnz : ends (step (code [0x10, 0xFE] { z with main := { z.main with b := 0x00 } })) (fun t =>
    t.main.b == 0xFF) = true := by decide

theorem test_v119_jr : ends (step { z with pc := 0x0000, mem := Memory.place [] 0x0000 [0x18, 0xFD] }) (fun t =>
    t.pc == 0xFFFF) = true := by decide

theorem test_v122_callCond : ends (step (code [0xCC, 0x00, 0x20] { z with
      main := { z.main with f := 0x00 }, sp := 0x4000 })) (fun t =>
    t.pc == 0x1003) = true := by decide

theorem test_v123_callCond : ends (step (code [0xDC, 0x00, 0x20] { z with
      main := { z.main with f := 0x01 }, sp := 0x4000 })) (fun t =>
    t.sp == 0x3FFE && t.pc == 0x2000 && t.mem.read 0x3FFE == 0x03 && t.mem.read 0x3FFF == 0x10) = true := by decide

theorem test_v125_retCond : ends (step (code [0xF0] { z with
      main := { z.main with f := 0x00 }, sp := 0x4000, mem := [(0x4000, 0x34), (0x4001, 0x12)] })) (fun t =>
    t.sp == 0x4002 && t.pc == 0x1234) = true := by decide

theorem test_v126_rst : ends (step (code [0xFF] { z with sp := 0x4000 })) (fun t =>
    t.sp == 0x3FFE && t.pc == 0x0038 && t.mem.read 0x3FFE == 0x01 && t.mem.read 0x3FFF == 0x10) = true := by decide

theorem test_v128_retn : ends (step (code [0xED, 0x45] { z with
      sp := 0x4000, iff1 := false, iff2 := true, mem := [(0x4001, 0x50)] })) (fun t =>
    t.sp == 0x4002 && t.iff1 && t.pc == 0x5000) = true := by decide

theorem test_v129_reti : ends (step (code [0xED, 0x4D] { z with
      sp := 0x4000, iff1 := false, iff2 := true, mem := [(0x4001, 0x50)] })) (fun t =>
    t.sp == 0x4002 && t.pc == 0x5000) = true := by decide

theorem test_v130_inAImm : ends (step (code [0xDB, 0x10] { z with
      main := { z.main with a := 0xAA, f := 0xFF }, iodevs := [⟨[0x10], .test 0x00 [] none 0⟩] })) (fun t =>
    t.main.a == 0x00 && t.pc == 0x1002) = true := by decide

theorem test_v131_inRegC : ends (step (code [0xED, 0x40] { z with
      main := { z.main with f := 0x01, b := 0x12, c := 0x34 }, iodevs := [⟨[0x34],
      .test 0x00 [] none 0⟩] })) (fun t =>
    t.main.f == 0x45 && t.main.b == 0x00 && t.pc == 0x1002) = true := by decide

theorem test_v134_outCReg : ends (step (code [0xED, 0x51] { z with
      main := { z.main with b := 0xFF, c := 0x10, d := 0x5A }, iodevs := [⟨[0x10],
      .test 0x00 [] none 0⟩] })) (fun t =>
    t.pc == 0x1002 && t.iodevs.map IODev.kind == [.test 0x00 [(0x10, 0x5A)] none 0]) = true := by decide

theorem test_v135_ini : ends (step (code [0xED, 0xA2] { z with
      main := { z.main with b := 0x02, c := 0x10, h := 0x30, l := 0x00 }, iodevs := [⟨[0x10],
      .test 0x7B [] none 0⟩] })) (fun t =>
    t.main.b == 0x01 && t.main.l == 0x01 && t.pc == 0x1002 && t.mem.read 0x3000 == 0x7B) = true := by decide

theorem test_v137_outd : ends (step (code [0xED, 0xAB] { z with
      main := { z.main with b := 0x01, c := 0x10, h := 0x30, l := 0x00 }, mem := [(0x3000, 0x99)],
      iodevs := [⟨[0x10], .test 0x00 [] none 0⟩] })) (fun t =>
    t.main.b == 0x00 && t.main.hl == 0x2FFF && t.pc == 0x1002 && t.iodevs.map IODev.kind == [.test 0x00 [(0x10,
    0x99)] none 0]) = true := by decide

theorem test_v138_indr : ends (step (code [0xED, 0xBA] { z with
      main := { z.main with b := 0x00, c := 0x10, h := 0x30, l := 0x00 }, iodevs := [⟨[0x10],
      .test 0x11 [] none 0⟩] })) (fun t =>
    t.main.b == 0xFF && t.main.hl == 0x2FFF && t.mem.read 0x3000 == 0x11) = true := by decide
/-! ### Stops -/

theorem test_v67_halted_is_refused : step { z with halted := true } = .refused .halted := rfl

theorem test_v99_invalid_sll : step (code [0xCB, 0x36] z) = .fault (.invalidInstruction [0xCB, 0x36]) := rfl

theorem test_v108_invalid_set_copy :
    step (code [0xDD, 0xCB, 0x00, 0xC0] z) = .fault (.invalidInstruction [0xDD, 0xCB, 0x00, 0xC0]) := rfl

theorem test_v139_unmapped_port : step (code [0xDB, 0x10] z) = .fault (.unmappedPort 0x10) := rfl

theorem test_f3_rom_write :
    step { z with
      main := { z.main with a := 0x55 },
      memdevs := [⟨0x4000, .rom, 0⟩, ⟨0x4000, .ram, 0⟩], mem := [(0, 0x32), (2, 0x10)] }
      = .fault (.readOnlyWrite 0x1000) := rfl

theorem test_f6_push_past_the_end :
    step (code [0xC5] { z with sp := 0x0001, memdevs := [⟨0x8000, .ram, 0⟩] }) = .fault (.unmappedAddress 0xFFFF) := rfl

theorem test_f7_partial_store :
    step (code [0x22, 0xFF, 0x7F] { z with memdevs := [⟨0x8000, .ram, 0⟩] }) = .fault (.unmappedAddress 0x8000) := rfl

theorem test_f8_fetch_past_the_end :
    step { z with pc := 0x7FFF, memdevs := [⟨0x8000, .ram, 0⟩], mem := [(0x7FFF, 0x3E)] }
      = .fault (.unmappedAddress 0x8000) := rfl

/-- F9, cut to four bytes each: 2 of ROM, 2 of RAM, an image of 6. -/
theorem test_f9_load :
    load [0x01, 0x02, 0x03, 0x04, 0x05, 0x06] { z with memdevs := [⟨2, .rom, 0⟩, ⟨2, .ram, 0⟩] }
      = ([.readOnlyWrite 0, .readOnlyWrite 1, .outOfBounds 4, .outOfBounds 5],
        { z with memdevs := [⟨2, .rom, 0⟩, ⟨2, .ram, 0⟩], mem := [(2, 0x03), (3, 0x04)] }) := by decide

/-! ### Interrupts -/

/-- A device that asserts `q` now. -/
def asking (p : Port) (q : Request) : IODev := ⟨[p], .test 0 [] (some q) 0⟩

/-- A device that asserts nothing any more. -/
def quiet (p : Port) : IODev := ⟨[p], .test 0 [] none 0⟩

theorem test_i1_nmi_wins :
    ends (step (code [0x00] { z with
      sp := 0x8000, iff1 := true, iff2 := true, im := .im1,
      iodevs := [asking 0x10 (.int 0xFF []), asking 0x11 .nmi] })) (fun t =>
    t.pc == 0x0066 && t.sp == 0x7FFE && !t.iff1 && t.iff2 && t.r == 0x00 && t.mem.read 0x7FFF == 0x10
      && t.iodevs == [asking 0x10 (.int 0xFF []), quiet 0x11]) = true := by decide

theorem test_i3_masked :
    ends (step (code [0x00] { z with sp := 0x8000, im := .im1, iodevs := [asking 0x10 (.int 0xFF [])] })) (fun t =>
    t.pc == 0x1001 && t.sp == 0x8000 && t.r == 0x01 && t.iodevs == [asking 0x10 (.int 0xFF [])]) = true := by decide

theorem test_i4_mode2 :
    ends (step (code [0x00] { z with
      sp := 0x8000, i := 0x80, iff1 := true, iff2 := true, im := .im2, mem := [(0x8011, 0x90)],
      iodevs := [asking 0x10 (.int 0x10 [])] })) (fun t =>
    t.pc == 0x9000 && t.sp == 0x7FFE && !t.iff1 && !t.iff2 && t.r == 0x00 && t.mem.read 0x7FFE == 0x00
      && t.mem.read 0x7FFF == 0x10 && t.iodevs == [quiet 0x10]) = true := by decide

theorem test_i5_mode0_call :
    ends (step (code [0x00] { z with
      sp := 0x8000, iff1 := true, iff2 := true, iodevs := [asking 0x10 (.int 0xCD [0x00, 0x50])] })) (fun t =>
    t.pc == 0x5000 && t.sp == 0x7FFE && !t.iff1 && !t.iff2 && t.r == 0x01 && t.mem.read 0x7FFE == 0x00
      && t.mem.read 0x7FFF == 0x10) = true := by decide

theorem test_i6_mode0_inc :
    ends (step (code [0x00] { z with
      main := { z.main with a := 0x0F }, iff1 := true, iff2 := true, iodevs := [asking 0x10 (.int 0x3C [])] })) (fun t =>
    t.pc == 0x1000 && t.main.a == 0x10 && t.main.f == 0x10 && t.r == 0x01 && t.source == .memory) = true := by decide

theorem test_i8_starts_later :
    ends (step (code [0x00] { z with
      sp := 0x8000, iff1 := true, im := .im1, iodevs := [⟨[0x10], .test 0 [] (some (.int 0xFF [])) 2⟩] })) (fun t =>
    t.pc == 0x1001 && t.iodevs == [⟨[0x10], .test 0 [] (some (.int 0xFF [])) 1⟩]) = true := by decide

theorem test_i10_halted_stays :
    step { z with halted := true, iodevs := [asking 0x10 .nmi] } = .refused .halted := rfl

theorem test_i11_mode0_invalid :
    step (code [0x00] { z with iff1 := true, iff2 := true, iodevs := [asking 0x10 (.int 0xDD [0x7C])] })
      = .fault (.invalidInstruction [0xDD, 0x7C]) := rfl

/-! ### The host between steps (R68, R569) -/

/-- S4's start, "with SP=0xFFFE", set by the host. -/
theorem test_host_sets_sp : (z.setRegister (.word .sp 0xFFFE)).wordReg .sp = 0xFFFE := by decide

theorem test_host_word_write_sets_both_halves :
    (z.setRegister (.word (.pair .alt .hl) 0x1234)).byteReg (.bank .alt .l) = 0x34 := by decide

/-- The host's `MemWrite` keeps the read-only check that `MemForce` bypasses (R67, R68, R568). -/
theorem test_host_memWrite_rom :
    hostOp { z with memdevs := [⟨2, .rom, 0⟩] } (.memWrite 1 0x55) = .error (.readOnlyWrite 1) := by decide

theorem test_host_forces_rom :
    (memForce { z with memdevs := [⟨2, .rom, 0⟩] } 1 0x55).map (fun t => t.mem) = .ok [(1, 0x55)] := by decide

/-! ## Witnesses

For every statement that has hypotheses, a state and operands that meet them. A statement's clauses are met one by one: `full`
is all RAM, so every access succeeds; `rom` is all ROM, so a read succeeds and a write fails; `hole` has no memory device, so
every access fails; `half` ends at 0x8000. -/

def full : State := { z with
  main := ⟨0x11, 0x01, 0x01, 0x10, 0x30, 0x00, 0x20, 0x00⟩, ix := 0x20F0, iy := 0xFFF0, sp := 0x8000, pc := 0x1000,
  mem := [(0x0010, 0x5A), (0x2000, 0x7E), (0x2001, 0x01), (0x2070, 0xC3), (0x8000, 0x34), (0x8001, 0x12)],
  iodevs := [quiet 0x10] }

def rom : State := { full with memdevs := [⟨65536, .rom, 0⟩] }

def hole : State := { full with memdevs := [] }

def half : State := { full with memdevs := [⟨0x8000, .ram, 0⟩] }

/-- `HL`, (IX - 128), (IY + 32) (which wraps), BC, DE and an absolute address, read where a byte is and where none is. -/
theorem witness_byte_reads :
    full.hl = 0x2000 ∧ full.ea .ix 0x80 = 0x2070 ∧ full.ea .iy 0x20 = 0x0010
    ∧ readByte full full.hl = .ok (0x7E, full) ∧ readByte full (full.ea .ix 0x80) = .ok (0xC3, full)
    ∧ readByte full (full.ea .iy 0x20) = .ok (0x5A, full) ∧ readByte full full.main.bc = .ok (0x00, full)
    ∧ readByte full full.main.de = .ok (0x00, full) ∧ readByte full 0xFFFF = .ok (0x00, full)
    ∧ readByte hole hole.hl = .error (.unmappedAddress 0x2000)
    ∧ readByte hole (hole.ea .ix 0x80) = .error (.unmappedAddress 0x2070)
    ∧ readByte hole (hole.ea .iy 0x20) = .error (.unmappedAddress 0x0010)
    ∧ readByte hole hole.main.bc = .error (.unmappedAddress 0x0110)
    ∧ readByte hole hole.main.de = .error (.unmappedAddress 0x3000)
    ∧ readByte half 0x8000 = .error (.unmappedAddress 0x8000) := by decide

/-- The same addresses written: it succeeds on RAM, and fails on ROM and where no device is. -/
theorem witness_byte_writes (w : Byte) (a : Word) (h : a ∈ [full.hl, full.ea .ix 0x80, full.ea .iy 0x20, full.main.bc,
      full.main.de, 0xFFFF]) :
    (∃ t, writeByte full a w = .ok t) ∧ writeByte rom a w = .error (.readOnlyWrite a.toNat)
    ∧ writeByte hole a w = .error (.unmappedAddress a.toNat) := by
  simp only [List.mem_cons, List.not_mem_nil, or_false] at h
  obtain rfl | rfl | rfl | rfl | rfl | rfl := h <;> exact ⟨⟨_, rfl⟩, rfl, rfl⟩

/-- Read, then written: both succeed on RAM, and on ROM the read succeeds and the write fails. -/
theorem witness_byte_modifies (f : Byte → Byte) (a : Word) (h : a ∈ [full.hl, full.ea .ix 0x80, full.ea .iy 0x20]) :
    (∃ v s1 s2, readByte full a = .ok (v, s1) ∧ writeByte s1 a (f v) = .ok s2)
    ∧ (∃ v s1, readByte rom a = .ok (v, s1) ∧ writeByte s1 a (f v) = .error (.readOnlyWrite a.toNat))
    ∧ readByte hole a = .error (.unmappedAddress a.toNat) := by
  simp only [List.mem_cons, List.not_mem_nil, or_false] at h
  obtain rfl | rfl | rfl := h <;> exact ⟨⟨_, _, _, rfl, rfl⟩, ⟨_, _, rfl, rfl⟩, rfl⟩

/-- Words read at an address, at the top of memory and at `SP`; the second byte alone can be missing. -/
theorem witness_word_reads :
    readWord full 0x2000 = .ok (0x017E, full) ∧ readWord full 0xFFFF = .ok (0x0000, full)
    ∧ readWord full full.sp = .ok (0x1234, full) ∧ readWord half 0x7FFF = .error (.unmappedAddress 0x8000)
    ∧ readWord hole 0x2000 = .error (.unmappedAddress 0x2000)
    ∧ readWord hole hole.sp = .error (.unmappedAddress 0x8000) := by decide

/-- Words written at an address, at the top of memory, at `SP` and below it; the second byte alone can fail. -/
theorem witness_word_writes (v : Word) :
    (∃ t, writeWord full 0x2000 v = .ok t) ∧ (∃ t, writeWord full 0xFFFF v = .ok t)
    ∧ (∃ t, writeWord full (full.sp - 2#16) v = .ok t) ∧ (∃ t, writeWord full full.sp v = .ok t)
    ∧ writeWord half 0x7FFF v = .error (.unmappedAddress 0x8000)
    ∧ writeWord rom rom.sp v = .error (.readOnlyWrite 0x8000)
    ∧ writeWord hole 0x2000 v = .error (.unmappedAddress 0x2000)
    ∧ writeWord hole (hole.sp - 2#16) v = .error (.unmappedAddress 0x7FFE) :=
  ⟨⟨_, rfl⟩, ⟨_, rfl⟩, ⟨_, rfl⟩, ⟨_, rfl⟩, rfl, rfl, rfl, rfl⟩

/-! ### The statements on decoding and on the devices -/

theorem witness_EncodeInvertsDecode :
    decode [0xDD, 0xCB, 0x80, 0xC6, 0x55] = .ok (.setIndIX 0 0x80) [0x55] ∧ decode [0x00] = .ok .nop [] := by decide

theorem witness_RefusedBytesAreNamed :
    decode [0xED, 0xFF, 0x00] = .invalid [0xED, 0xFF]
    ∧ decode [0xFD, 0xCB, 0x05, 0x00, 0x09] = .invalid [0xFD, 0xCB, 0x05, 0x00] := by decide

/-- ROM, nothing, RAM and two custom devices, 16 bytes each. -/
def mixed : State := { z with
  memdevs := [⟨16, .rom, 0⟩, ⟨0, .ram, 0⟩, ⟨16, .ram, 0⟩, ⟨16, .custom false 3, 7⟩, ⟨16, .custom true 4, 0⟩] }

/-- The ends of each device: the last byte of one, the first of the next, the last of all and the first past it. -/
theorem witness_ResolutionFollowsPlacement :
    resolve mixed.memdevs 15 = some ⟨0, 15, ⟨16, .rom, 0⟩⟩ ∧ resolve mixed.memdevs 16 = some ⟨2, 0, ⟨16, .ram, 0⟩⟩
    ∧ resolve mixed.memdevs 63 = some ⟨4, 15, ⟨16, .custom true 4, 0⟩⟩ ∧ resolve mixed.memdevs 64 = none
    ∧ totalSize mixed.memdevs ≤ 64 := by decide

theorem witness_ByteAccesses :
    resolve mixed.memdevs 0 = some ⟨0, 0, ⟨16, .rom, 0⟩⟩ ∧ MemDev.readonly ⟨16, .rom, 0⟩ = true
    ∧ resolve mixed.memdevs 31 = some ⟨2, 15, ⟨16, .ram, 0⟩⟩ ∧ mixed.mem.wf = true
    ∧ resolve mixed.memdevs 32 = some ⟨3, 0, ⟨16, .custom false 3, 7⟩⟩
    ∧ readAt mixed 64 = .error (.unmappedAddress 64) ∧ writeAt mixed 64 0 = .error (.unmappedAddress 64) := by decide

/-- What a custom device answers is the embedding system's (log entry 4): it answers one of the two, so one of the two clauses
is met for a read, and one for a write. -/
theorem witness_ByteAccesses_custom :
    ((∃ v n, Config.memDevRead 3 7 0 = .ok (v, n)) ∨ ∃ e, Config.memDevRead 3 7 0 = .error e)
    ∧ ((∃ n, Config.memDevWrite 3 7 0 0x55 = .ok n) ∨ ∃ e, Config.memDevWrite 3 7 0 0x55 = .error e) := by
  constructor
  · rcases Config.memDevRead 3 7 0 with e | ⟨v, n⟩
    · exact .inr ⟨e, rfl⟩
    · exact .inl ⟨v, n, rfl⟩
  · rcases Config.memDevWrite 3 7 0 0x55 with e | n
    · exact .inr ⟨e, rfl⟩
    · exact .inl ⟨n, rfl⟩

theorem witness_PortAccesses :
    iodevsWellFormed [quiet 0x10, quiet 0xFF] = true ∧ (∀ d ∈ [quiet 0x10, quiet 0xFF], (0x11 : Port) ∉ d.ports)
    ∧ [quiet 0x10, quiet 0xFF][1]? = some (quiet 0xFF) ∧ 0xFF ∈ (quiet 0xFF).ports
    ∧ (quiet 0xFF).portIn 0xFF = .ok (0x00, quiet 0xFF)
    ∧ (quiet 0xFF).portOut 0xFF 0x07 = .ok ⟨[0xFF], .test 0 [(0xFF, 0x07)] none 0⟩ := by decide

/-- As `witness_ByteAccesses_custom`, for a custom I/O device (log entry 5). -/
theorem witness_PortAccesses_custom (d : IODev) (hd : d = ⟨[0x20], .custom 3 7⟩) :
    ((∃ v e, d.portIn 0x20 = .ok (v, e)) ∨ ∃ t, d.portIn 0x20 = .error t)
    ∧ ((∃ e, d.portOut 0x20 0x55 = .ok e) ∨ ∃ t, d.portOut 0x20 0x55 = .error t) := by
  subst hd
  constructor
  · simp only [IODev.portIn]
    rcases Config.portIn 3 7 0x20 with e | ⟨v, n⟩
    · exact .inr ⟨e, rfl⟩
    · exact .inl ⟨v, _, rfl⟩
  · simp only [IODev.portOut]
    rcases Config.portOut 3 7 0x20 0x55 with e | n
    · exact .inr ⟨e, rfl⟩
    · exact .inl ⟨_, rfl⟩

theorem witness_LoadPlacesTheImage :
    full.mem.wf = true ∧ (∀ d ∈ [(⟨2, .rom, 0⟩ : MemDev), ⟨2, .ram, 0⟩], plainKind d.kind = true) := by decide

/-! ### The statements on the step -/

/-- `LD BC,0x1234` at 0xFFFE, so that its last byte is at 0x0000; a device with no request. -/
def wrapped : State := { z with
  pc := 0xFFFE, mem := [(0x0000, 0x12), (0xFFFE, 0x01), (0xFFFF, 0x34)], iodevs := [quiet 0x10] }

theorem plainAt_wrapped (a : Word) : PlainAt wrapped a := by
  refine ⟨⟨0, a.toNat, ⟨65536, .ram, 0⟩⟩, ?_, rfl⟩
  simp only [wrapped, z, State.reset, resolve, if_pos a.isLt]

theorem witness_StepRunsTheDecodedInstruction :
    wrapped.halted = false ∧ arbitrate (wrapped.iodevs.map IODev.tick) wrapped.iff1 = none
    ∧ ∀ k v, (encode (.ldPairImm .bc 0x1234))[k]? = some v →
      PlainAt wrapped (wrapped.pc + BitVec.ofNat 16 k) ∧ wrapped.mem.read (wrapped.pc + BitVec.ofNat 16 k).toNat = v := by
  refine ⟨rfl, rfl, fun k v h => ⟨plainAt_wrapped _, ?_⟩⟩
  match k, h with
  | 0, h => cases h; rfl
  | 1, h => cases h; rfl
  | 2, h => cases h; rfl

theorem witness_FetchReadsEachByteOnce :
    fetch wrapped = .ok (.ldPairImm .bc 0x1234, wrapped)
    ∧ ReadsInOrder wrapped wrapped.pc (encode (.ldPairImm .bc 0x1234)) wrapped :=
  ⟨rfl, ⟨_, rfl, _, rfl, _, rfl, rfl⟩⟩

/-- A 32 KiB RAM with `3E` in its last byte, and `pc` there. -/
def cut : State := { half with pc := 0x7FFF, mem := [(0x7FFF, 0x3E)] }

/-- `ED 00` at 0x1000, and `cut`. -/
theorem witness_FetchFaults :
    (code [0xED, 0x00] z).halted = false
    ∧ arbitrate ((code [0xED, 0x00] z).iodevs.map IODev.tick) (code [0xED, 0x00] z).iff1 = none
    ∧ ReadsInOrder (code [0xED, 0x00] z) (code [0xED, 0x00] z).pc [0xED, 0x00] (code [0xED, 0x00] z)
    ∧ decode [0xED, 0x00] = .invalid [0xED, 0x00]
    ∧ cut.halted = false ∧ arbitrate (cut.iodevs.map IODev.tick) cut.iff1 = none
    ∧ ReadsInOrder cut cut.pc [0x3E] cut ∧ decode [0x3E] = .incomplete
    ∧ readByte cut (cut.pc + BitVec.ofNat 16 1) = .error (.unmappedAddress 0x8000) :=
  ⟨rfl, rfl, ⟨_, rfl, _, rfl, rfl⟩, rfl, rfl, rfl, ⟨_, rfl, rfl⟩, rfl, rfl⟩

theorem witness_OnlyHaltedIsRefused :
    step { z with halted := true } = .refused .halted ∧ ends (step z) (fun t => t.pc == 1) = true := ⟨rfl, by decide⟩

theorem witness_ArbitrationPicksByPriority :
    arbitrate [asking 0x10 (.int 0xFF []), quiet 0x11, asking 0x12 .nmi, asking 0x13 .nmi] false = some (2, .nmi)
    ∧ arbitrate [quiet 0x10, asking 0x11 (.int 0xC7 [0x00]), asking 0x12 (.int 0xFF [])] true
      = some (1, .int 0xC7 [0x00])
    ∧ arbitrate [asking 0x11 (.int 0xC7 [])] false = none ∧ arbitrate [quiet 0x10] true = none := by decide

/-- `s` with one device that asserts NMI. -/
def withNmi (s : State) : State := { s with iodevs := [asking 0x10 .nmi] }

theorem witness_NmiEntry :
    (withNmi full).halted = false
    ∧ arbitrate ((withNmi full).iodevs.map IODev.tick) (withNmi full).iff1 = some (0, .nmi)
    ∧ (∃ t, writeWord (withNmi full) ((withNmi full).sp - 2#16) (withNmi full).pc = .ok t)
    ∧ (withNmi hole).halted = false
    ∧ arbitrate ((withNmi hole).iodevs.map IODev.tick) (withNmi hole).iff1 = some (0, .nmi)
    ∧ writeWord (withNmi hole) ((withNmi hole).sp - 2#16) (withNmi hole).pc = .error (.unmappedAddress 0x7FFE) :=
  ⟨rfl, rfl, ⟨_, rfl⟩, rfl, rfl, rfl⟩

/-- `half` with its interrupts enabled and one device asking with the payload `first :: rest`. -/
def enabled (im : IntMode) (i : Byte) (first : Byte) (rest : List Byte) : State := { half with
  iff1 := true, iff2 := true, im := im, i := i, iodevs := [asking 0x10 (.int first rest)] }

theorem enabled_accepts (im : IntMode) (i first : Byte) (rest : List Byte) :
    (enabled im i first rest).halted = false ∧ (enabled im i first rest).im = im
    ∧ arbitrate ((enabled im i first rest).iodevs.map IODev.tick) (enabled im i first rest).iff1
      = some (0, .int first rest) := ⟨rfl, rfl, rfl⟩

/-- Every state here is accepted by `enabled_accepts`. The push succeeds below 0x8000; with `SP` at 1 it goes to 0xFFFF, which
is not there; the table of mode 2 is there with `I` 0x20 and not with `I` 0x90. -/
theorem witness_VectoredEntry (s : State) (hs : s = enabled .im2 0x20 0x10 []) (u : State)
    (hu : u = enabled .im2 0x90 0x10 []) :
    (∃ t, writeWord (enabled .im1 0 0x10 []) (0x8000 - 2#16) 0x1000 = .ok t)
    ∧ (∃ t v w, writeWord s (s.sp - 2#16) s.pc = .ok t ∧ readWord t (s.i ++ (0x10 : Byte)) = .ok (v, w))
    ∧ writeWord { s with sp := 0x0001 } (0x0001 - 2#16) 0x1000 = .error (.unmappedAddress 0xFFFF)
    ∧ ∃ t, writeWord u (u.sp - 2#16) u.pc = .ok t
      ∧ readWord t (u.i ++ (0x10 : Byte)) = .error (.unmappedAddress 0x9010) := by
  subst hs hu
  exact ⟨⟨_, rfl⟩, ⟨_, _, _, rfl, rfl⟩, rfl, ⟨_, rfl, rfl⟩⟩

/-- With `enabled_accepts` at mode 0: a payload of one instruction, of more, of less, and one the decoder refuses. -/
theorem witness_ModeZeroEntry :
    (enabled .im0 0 0xCD [0x00, 0x50]).im = .im0 ∧ decode [0xCD, 0x00, 0x50] = .ok (.call 0x5000) []
    ∧ decode [0x3C, 0x00] = .ok (.incReg .a) [0x00] ∧ decode [0xCD, 0x00] = .incomplete
    ∧ decode [0xDD, 0x7C] = .invalid [0xDD, 0x7C] := by decide

/-- `LD (HL),n` at 0x1000. -/
theorem witness_InvariantKeptByStep :
    Inv (code [0x36, 0x5A] full) ∧ ∃ t, step (code [0x36, 0x5A] full) = .next t :=
  ⟨⟨by decide, by decide, by decide, rfl⟩, ⟨_, rfl⟩⟩

/-- A run of two steps on a machine with a ROM byte 1. -/
theorem witness_RomNeverChanges :
    ∃ t u, step { z with memdevs := [⟨16, .rom, 0⟩], mem := [(0x0000, 0x3C), (0x0001, 0x04)] } = .next t
      ∧ step t = .next u
      ∧ Reaches { z with memdevs := [⟨16, .rom, 0⟩], mem := [(0x0000, 0x3C), (0x0001, 0x04)] } u
      ∧ resolve [⟨16, .rom, 0⟩] 1 = some ⟨0, 1, ⟨16, .rom, 0⟩⟩ :=
  ⟨_, _, rfl, rfl, .next (.next .here rfl) rfl, rfl⟩

theorem ramAt_reset (ds : List IODev) (a : Word) : RamAt { z with iodevs := ds } a := by
  refine ⟨⟨0, a.toNat, ⟨65536, .ram, 0⟩⟩, ?_, rfl⟩
  simp only [z, State.reset, resolve, if_pos a.isLt]

/-- All RAM, and one test device on all 256 ports. -/
theorem witness_EveryInstructionCompletes (d : IODev)
    (hd : d = ⟨(List.range 256).map (BitVec.ofNat 8), .test 0x7B [] none 0⟩) :
    (∀ a : Word, RamAt { z with iodevs := [d] } a) ∧ (∀ p : Port, ∃ e ∈ [d], p ∈ e.ports)
    ∧ ∀ e ∈ [d], ∃ v received q n, e.kind = .test v received q n := by
  subst hd
  refine ⟨ramAt_reset _, fun p => ⟨_, List.mem_singleton.2 rfl, ?_⟩, fun e he => ?_⟩
  · exact List.mem_map.2 ⟨p.toNat, List.mem_range.2 p.isLt, by simp⟩
  · cases List.mem_singleton.1 he
    exact ⟨_, _, _, _, rfl⟩

theorem witness_AlternateBankOnlyExchanged :
    (∃ t, exec .ldi full = .next t) ∧ exec .ldi hole = .fault (.unmappedAddress 0x2000)
    ∧ Instr.ldi ≠ .exAFAF ∧ Instr.ldi ≠ .exx := ⟨⟨_, rfl⟩, rfl, by decide, by decide⟩

theorem witness_ControlStateWriters :
    (∃ t, exec .reti full = .next t) ∧ (∃ t, exec .nop { z with halted := true } = .next t)
    ∧ usesPorts .reti = false ∧ writesIX .reti = false ∧ writesIY .reti = false
    ∧ writesIX (.addIXPair .ix) = true ∧ (∃ t, exec .incIX { full with ix := 0xFFFF } = .next t) :=
  ⟨⟨_, rfl⟩, ⟨_, rfl⟩, rfl, rfl, rfl, rfl, ⟨_, rfl⟩⟩

theorem witness_RefreshCountsOnce :
    (∃ t, exec (.setIndIX 3 0x80) { full with r := 0xFF } = .next t) ∧ ∃ t, exec .ldRA full = .next t :=
  ⟨⟨_, rfl⟩, ⟨_, rfl⟩⟩

/-- Register writes, a forced write to the last ROM byte and the first RAM byte, and each operation that answers a machine. -/
theorem witness_HostOperations :
    (full.setRegister (.byte (.bank .alt .f) 0xFF)).alt.f = 0xFF
    ∧ (full.setRegister (.word (.pair .main .bc) 0x1234)).main.c = 0x34
    ∧ resolve mixed.memdevs 15 = some ⟨0, 15, ⟨16, .rom, 0⟩⟩ ∧ resolve mixed.memdevs 16 = some ⟨2, 0, ⟨16, .ram, 0⟩⟩
    ∧ mixed.mem.wf = true
    ∧ (∃ t, hostOp { full with halted := true } (.write .halted) = .ok t)
    ∧ (∃ t, hostOp full (.load [0x01, 0x02]) = .ok t)
    ∧ (∃ t, hostOp { full with memdevs := [⟨2, .ram, 0⟩] } .save = .ok t)
    ∧ (∃ t, hostOp full (.memRead 0x2000) = .ok t) ∧ (∃ t, hostOp full (.memWrite 0xFFFF 0x55) = .ok t)
    ∧ (∃ t, hostOp rom (.force 0x2000 0x55) = .ok t) ∧ ∃ t, hostOp full (.reset false) = .ok t :=
  ⟨rfl, rfl, rfl, rfl, rfl, ⟨_, rfl⟩, ⟨_, rfl⟩, ⟨_, rfl⟩, ⟨_, rfl⟩, ⟨_, rfl⟩, ⟨_, rfl⟩, ⟨_, rfl⟩⟩

/-! ### The statements on instructions

`witness_byte_reads`, `witness_byte_writes`, `witness_byte_modifies`, `witness_word_reads` and `witness_word_writes` give each
clause of the shapes; here each statement's own accesses. -/

theorem witness_ByteLoads :
    readByte full full.hl = .ok (0x7E, full) ∧ readByte hole hole.hl = .error (.unmappedAddress 0x2000) := by decide

theorem witness_ByteStores :
    (∃ t, writeByte full (full.ea .iy 0x20) 0x55 = .ok t)
    ∧ writeByte hole (hole.ea .iy 0x20) 0x55 = .error (.unmappedAddress 0x0010)
    ∧ full.mem.wf = true ∧ RamAt full (full.ea .iy 0x20) := ⟨⟨_, rfl⟩, rfl, by decide, ⟨_, rfl, rfl⟩⟩

theorem witness_WordLoads :
    readWord full 0xFFFF = .ok (0x0000, full) ∧ readWord half 0x7FFF = .error (.unmappedAddress 0x8000) := by decide

theorem witness_WordStores :
    (∃ t, writeWord full 0xFFFF full.main.hl = .ok t)
    ∧ writeWord half 0x7FFF half.main.hl = .error (.unmappedAddress 0x8000)
    ∧ RamAt full 0xFFFF ∧ RamAt full (0xFFFF + 1#16) := ⟨⟨_, rfl⟩, rfl, ⟨_, rfl, rfl⟩, ⟨_, rfl, rfl⟩⟩

theorem witness_Pushes :
    (∃ t, writeWord full (full.sp - 2#16) (full.stackPair .af) = .ok t)
    ∧ writeWord hole (hole.sp - 2#16) (hole.stackPair .af) = .error (.unmappedAddress 0x7FFE) := ⟨⟨_, rfl⟩, rfl⟩

theorem witness_Pops :
    readWord full full.sp = .ok (0x1234, full) ∧ readWord hole hole.sp = .error (.unmappedAddress 0x8000) := by decide

theorem witness_StackTopExchanges :
    (∃ w s1 s2, readWord full full.sp = .ok (w, s1) ∧ writeWord s1 full.sp full.ix = .ok s2)
    ∧ readWord hole hole.sp = .error (.unmappedAddress 0x8000)
    ∧ ∃ w s1, readWord rom rom.sp = .ok (w, s1) ∧ writeWord s1 rom.sp rom.ix = .error (.readOnlyWrite 0x8000) :=
  ⟨⟨_, _, _, rfl, rfl⟩, rfl, ⟨_, _, rfl, rfl⟩⟩

theorem witness_BlockTransfers :
    (∃ t s1 s2, readByte full full.main.hl = .ok (t, s1) ∧ writeByte s1 full.main.de t = .ok s2)
    ∧ readByte hole hole.main.hl = .error (.unmappedAddress 0x2000)
    ∧ ∃ t s1, readByte rom rom.main.hl = .ok (t, s1) ∧ writeByte s1 rom.main.de t = .error (.readOnlyWrite 0x3000) :=
  ⟨⟨_, _, _, rfl, rfl⟩, rfl, ⟨_, _, rfl, rfl⟩⟩

theorem witness_BlockSearches :
    readByte full full.main.hl = .ok (0x7E, full) ∧ readByte hole hole.main.hl = .error (.unmappedAddress 0x2000) := by
  decide

/-- For the statements of the eight operations and their forms: a register, an immediate, and each memory form. -/
theorem witness_Additions :
    (Form8.reg .c).read full = .ok (0x10, full) ∧ (Form8.imm 0x4E).read full = .ok (0x4E, full)
    ∧ (Form8.mem .indHL).read full = .ok (0x7E, full) ∧ (Form8.mem (.indIX 0x80)).read full = .ok (0xC3, full)
    ∧ (Form8.mem (.indIY 0x20)).read full = .ok (0x5A, full)
    ∧ (Form8.mem (.indIX 0x80)).read hole = .error (.unmappedAddress 0x2070) := by decide

theorem witness_Subtractions :
    (Form8.reg .b).read full = .ok (0x01, full) ∧ (Form8.imm 0x80).read full = .ok (0x80, full)
    ∧ (Form8.mem .indHL).read hole = .error (.unmappedAddress 0x2000) := by decide

theorem witness_LogicalOperations :
    (Form8.reg .a).read full = .ok (0x11, full) ∧ (Form8.mem (.indIY 0x20)).read full = .ok (0x5A, full)
    ∧ (Form8.mem (.indIY 0x20)).read hole = .error (.unmappedAddress 0x0010) := by decide

theorem witness_ByteIncrements :
    (∃ v s1 s2, readByte full full.hl = .ok (v, s1) ∧ writeByte s1 full.hl (v + 1#8) = .ok s2)
    ∧ (∃ v s1, readByte rom rom.hl = .ok (v, s1) ∧ writeByte s1 rom.hl (v - 1#8) = .error (.readOnlyWrite 0x2000))
    ∧ readByte hole hole.hl = .error (.unmappedAddress 0x2000) := ⟨⟨_, _, _, rfl, rfl⟩, ⟨_, _, rfl, rfl⟩, rfl⟩

theorem witness_AccumulatorAndCarry :
    ∃ (s : State) (a f n : Byte), a = s.main.a ∧ f = s.main.f ∧ n = ~~~s.main.a := ⟨full, 0x11, 0x01, 0xEE, by decide⟩

theorem witness_WordArithmetic :
    ∃ (s : State) (f : Byte) (hl : Word), f = s.main.f ∧ hl = s.main.hl := ⟨full, 0x01, 0x2000, by decide⟩

theorem witness_AccumulatorRotates :
    (BitVec.ofNat 8 0x22, false) = ShiftOp.rlc.result full.main.a (full.main.f.getLsbD 0)
    ∧ (BitVec.ofNat 8 0x88, true) = ShiftOp.rr.result full.main.a (full.main.f.getLsbD 0) := by decide

theorem witness_RegisterShifts :
    (BitVec.ofNat 8 0x08, true) = ShiftOp.srl.result (full.main.get .a) (full.main.f.getLsbD 0) := by decide

theorem witness_MemoryShifts :
    (∃ v s1 s2, readByte full (MemForm.addr full (.indIX 0x80)) = .ok (v, s1)
      ∧ writeByte s1 (MemForm.addr full (.indIX 0x80)) (ShiftOp.rlc.result v true).1 = .ok s2)
    ∧ (∃ v s1, readByte rom (MemForm.addr rom .indHL) = .ok (v, s1)
      ∧ writeByte s1 (MemForm.addr rom .indHL) (ShiftOp.rlc.result v true).1 = .error (.readOnlyWrite 0x2000))
    ∧ readByte hole (MemForm.addr hole (.indIY 0x20)) = .error (.unmappedAddress 0x0010) :=
  ⟨⟨_, _, _, rfl, rfl⟩, ⟨_, _, rfl, rfl⟩, rfl⟩

theorem witness_DigitRotates :
    full.main.a.toNat / 16 = 1 ∧ full.main.a.toNat % 16 = 1
    ∧ (∃ v s1 s2, readByte full full.hl = .ok (v, s1)
      ∧ writeByte s1 full.hl (BitVec.ofNat 8 (v.toNat % 16 * 16 + 1)) = .ok s2)
    ∧ (∃ v s1, readByte rom rom.hl = .ok (v, s1)
      ∧ writeByte s1 rom.hl (BitVec.ofNat 8 (1 * 16 + v.toNat / 16)) = .error (.readOnlyWrite 0x2000))
    ∧ readByte hole hole.hl = .error (.unmappedAddress 0x2000) :=
  ⟨by decide, by decide, ⟨_, _, _, rfl, rfl⟩, ⟨_, _, rfl, rfl⟩, rfl⟩

theorem witness_BitTests :
    readByte full (full.ea .ix 0x80) = .ok (0xC3, full) ∧ readByte hole (hole.ea .iy 0x20) = .error (.unmappedAddress 0x0010)
    ∧ (Except.ok (full.main.get .a, full) : Except Fault (Byte × State)) = .ok (0x11, full) := by decide

/-- The two functions the statement asks for, at bit 7. -/
theorem witness_BitSetsAndResets :
    (∀ (v : Byte) (k : Nat), k < 8 → (v ||| 0x80).getLsbD k = (decide (k = (7 : BitVec 3).toNat) || v.getLsbD k))
    ∧ (∀ (v : Byte) (k : Nat), k < 8 → (v &&& 0x7F).getLsbD k = (decide (k ≠ (7 : BitVec 3).toNat) && v.getLsbD k))
    ∧ (∃ v s1 s2, readByte full full.hl = .ok (v, s1) ∧ writeByte s1 full.hl (v ||| 0x80) = .ok s2)
    ∧ (∃ v s1, readByte rom rom.hl = .ok (v, s1) ∧ writeByte s1 rom.hl (v &&& 0x7F) = .error (.readOnlyWrite 0x2000))
    ∧ readByte hole hole.hl = .error (.unmappedAddress 0x2000) :=
  ⟨by decide, by decide, ⟨_, _, _, rfl, rfl⟩, ⟨_, _, rfl, rfl⟩, rfl⟩

theorem witness_CallsAndRestarts :
    (∃ t, writeWord full (full.sp - 2#16) (nextPc full 3) = .ok t)
    ∧ writeWord hole (hole.sp - 2#16) (nextPc hole 3) = .error (.unmappedAddress 0x7FFE)
    ∧ holds full.main.f .c = true ∧ holds full.main.f .z = false := ⟨⟨_, rfl⟩, rfl, by decide, by decide⟩

theorem witness_Returns :
    readWord full full.sp = .ok (0x1234, full) ∧ readWord hole hole.sp = .error (.unmappedAddress 0x8000)
    ∧ holds full.main.f .po = true ∧ holds full.main.f .m = false := by decide

theorem witness_PortTransfers :
    portRead full full.main.c = .ok (0x00, full) ∧ portRead full 0x11 = .error (.unmappedPort 0x11)
    ∧ (∃ u, portWrite full full.main.c 0x55 = .ok u) ∧ portWrite full 0x11 0x55 = .error (.unmappedPort 0x11) :=
  ⟨rfl, rfl, ⟨_, rfl⟩, rfl⟩

theorem witness_BlockInputs :
    (∃ t s1 s2, portRead full full.main.c = .ok (t, s1) ∧ writeByte s1 full.main.hl t = .ok s2)
    ∧ portRead z z.main.c = .error (.unmappedPort 0x00)
    ∧ ∃ t s1, portRead rom rom.main.c = .ok (t, s1) ∧ writeByte s1 rom.main.hl t = .error (.readOnlyWrite 0x2000) :=
  ⟨⟨_, _, _, rfl, rfl⟩, rfl, ⟨_, _, rfl, rfl⟩⟩

theorem witness_BlockOutputs :
    (∃ t s1 s2, readByte full full.main.hl = .ok (t, s1) ∧ portWrite s1 full.main.c t = .ok s2)
    ∧ readByte hole hole.main.hl = .error (.unmappedAddress 0x2000)
    ∧ ∃ t s1, readByte z z.main.hl = .ok (t, s1) ∧ portWrite s1 z.main.c t = .error (.unmappedPort 0x00) :=
  ⟨⟨_, _, _, rfl, rfl⟩, rfl, ⟨_, _, rfl, rfl⟩⟩

end Sys2Proof.Tests
end

/-! Register pairs and effective addresses read as numbers (R21, R116). -/

namespace Sys2Proof

/-- `{hi, lo}` as a number (R69, R117). -/
theorem wordOf_toNat (lo hi : Byte) : (wordOf lo hi).toNat = 256 * hi.toNat + lo.toNat := by
  calc (wordOf lo hi).toNat
    _ = hi.toNat <<< 8 ||| lo.toNat := BitVec.toNat_append hi lo
    _ = hi.toNat <<< 8 + lo.toNat := (Nat.shiftLeft_add_eq_or_of_lt lo.isLt _).symm
    _ = 256 * hi.toNat + lo.toNat := by rw [Nat.shiftLeft_eq, Nat.mul_comm]

/-- Adding `sext_16(e)` is adding the two's-complement value of `e`, modulo 65536 (R116, R118): sign extension is
`BitVec.ofInt` of that value, and `BitVec.ofInt` respects addition. -/
theorem add_sext16 (w : Word) (e : Byte) : w + sext16 e = BitVec.ofInt 16 ((w.toNat : Int) + e.toInt) := by
  have hw : BitVec.ofInt 16 (w.toNat : Int) = w := by
    rw [BitVec.ofInt_natCast, BitVec.ofNat_toNat, BitVec.setWidth_eq]
  have he : BitVec.ofInt 16 e.toInt = sext16 e := rfl
  rw [BitVec.ofInt_add, hw, he]

namespace Machine

/-- The effective address with the displacement as an integer (R116), for either index register. -/
theorem State.ea_eq_ofInt (s : State) (x : Index) (d : Byte) :
    s.ea x d = BitVec.ofInt 16 (((s.index x).toNat : Int) + d.toInt) :=
  add_sext16 (s.index x) d

/-- Settles O5: each pair is a `wordOf` of its halves, each setter writes `hiByte` and `loByte` by definition, and an
effective address is the index register plus a sign-extended displacement. -/
theorem pairsAndEffectiveAddresses : Obligations.PairsAndEffectiveAddresses := by
  unfold Obligations.PairsAndEffectiveAddresses
  refine ⟨fun g => ?reads, fun g v => ?writes, fun s d => ?addresses⟩
  case reads =>
    exact ⟨wordOf_toNat g.c g.b, wordOf_toNat g.e g.d, wordOf_toNat g.l g.h, wordOf_toNat g.f g.a⟩
  case writes => exact ⟨rfl, rfl, rfl, rfl⟩
  case addresses => exact ⟨s.ea_eq_ofInt .ix d, s.ea_eq_ofInt .iy d⟩

end Machine

end Sys2Proof

/-! Resolution by placement: the devices lie end to end from address 0 (R62, R64). -/

namespace Sys2Proof.Machine

@[simp] theorem totalSize_nil : totalSize [] = 0 := rfl

@[simp] theorem totalSize_cons (d : MemDev) (ds : List MemDev) : totalSize (d :: ds) = d.size + totalSize ds := rfl

/-- The first device answers an address below its size. -/
theorem resolve_cons_of_lt {d : MemDev} {ds : List MemDev} {a : Nat} (ha : a < d.size) :
    resolve (d :: ds) a = some ⟨0, a, d⟩ :=
  if_pos ha

/-- Past the first device the scan goes on with the devices after it, from that device's end. -/
theorem resolve_cons_size_add (d : MemDev) (ds : List MemDev) (b : Nat) :
    resolve (d :: ds) (d.size + b) = (resolve ds b).map fun l => { l with index := l.index + 1 } := by
  simp [resolve]

/-- What the scan finds lies where the sizes place it. -/
theorem resolve_placement {ds : List MemDev} {a : Nat} {l : Located} (h : resolve ds a = some l) :
    ds[l.index]? = some l.dev ∧ a = totalSize (ds.take l.index) + l.offset := by
  induction ds generalizing a l with
  | nil => cases h
  | cons d ds ih =>
    rcases Nat.lt_or_ge a d.size with ha | ha
    · rw [resolve_cons_of_lt ha] at h
      cases h
      exact ⟨rfl, (Nat.zero_add a).symm⟩
    · obtain ⟨b, rfl⟩ := Nat.exists_eq_add_of_le ha
      rw [resolve_cons_size_add] at h
      obtain ⟨l', hl', rfl⟩ := Option.map_eq_some_iff.mp h
      obtain ⟨hdev, rfl⟩ := ih hl'
      exact ⟨hdev, (Nat.add_assoc ..).symm⟩

/-- The scan finds every device at every local offset that it has, at the address where the sizes place it. -/
theorem resolve_base_add {ds : List MemDev} {k o : Nat} {d : MemDev} (hd : ds[k]? = some d) (ho : o < d.size) :
    resolve ds (totalSize (ds.take k) + o) = some ⟨k, o, d⟩ := by
  induction ds generalizing k with
  | nil => cases hd
  | cons e ds ih =>
    cases k with
    | zero =>
      cases hd
      rw [List.take_zero, totalSize_nil, Nat.zero_add, resolve_cons_of_lt ho]
    | succ k =>
      rw [List.take_succ_cons, totalSize_cons, Nat.add_assoc, resolve_cons_size_add, ih hd]
      rfl

/-- An address resolves to nothing exactly at and past `TOTAL` (R62). -/
theorem resolve_eq_none_iff (ds : List MemDev) (a : Nat) : resolve ds a = none ↔ totalSize ds ≤ a := by
  rw [← Option.not_isSome_iff_eq_none, resolve_isSome, decide_eq_true_iff, Nat.not_lt]

/-- Settles O7: the scan is sound and complete for the placement by sizes, each by induction on the devices. -/
theorem resolutionFollowsPlacement : Obligations.ResolutionFollowsPlacement := by
  unfold Obligations.ResolutionFollowsPlacement
  refine fun ds a => ⟨fun l => ⟨fun h => ?sound, ?complete⟩, resolve_eq_none_iff ds a⟩
  case sound =>
    obtain ⟨hdev, haddr⟩ := resolve_placement h
    exact ⟨hdev, resolve_offset h, haddr⟩
  case complete =>
    rintro ⟨hdev, hoff, rfl⟩
    exact resolve_base_add hdev hoff

end Sys2Proof.Machine

/-! Arbitration: the first device in registration order that asserts a request of either sort, and which sort wins (R512). -/

namespace Sys2Proof.Machine

/-- A claim on all places before `j + 1` of a non-empty list, as the scans below meet it: on the head, and on all places
before `j` of the tail. -/
theorem forall_before_succ_cons {α : Type} {p : α → Prop} {x : α} {xs : List α} {j : Nat} :
    (∀ k y, k < j + 1 → (x :: xs)[k]? = some y → p y) ↔ p x ∧ ∀ k y, k < j → xs[k]? = some y → p y := by
  constructor
  · exact fun h => ⟨h 0 x (Nat.succ_pos j) rfl, fun k y hk => h (k + 1) y (Nat.succ_lt_succ hk)⟩
  · rintro ⟨hx, hxs⟩ (_ | k) y hk hy
    · cases hy
      exact hx
    · exact hxs k y (Nat.lt_of_succ_lt_succ hk) hy

/-! ### The first NMI -/

@[simp] theorem firstNmi_nil : firstNmi [] = none := rfl

theorem firstNmi_cons_of_nmi {d : IODev} (ds : List IODev) (hd : d.irq = some .nmi) : firstNmi (d :: ds) = some 0 := by
  simp only [firstNmi, hd]

theorem firstNmi_cons_of_ne {d : IODev} (ds : List IODev) (hd : d.irq ≠ some .nmi) :
    firstNmi (d :: ds) = (firstNmi ds).map (· + 1) := by
  rw [firstNmi]
  split
  · contradiction
  · rfl

theorem firstNmi_eq_none_iff (ds : List IODev) : firstNmi ds = none ↔ ∀ d ∈ ds, d.irq ≠ some .nmi := by
  induction ds with
  | nil => simp
  | cons d ds ih =>
    rw [List.forall_mem_cons]
    by_cases hd : d.irq = some .nmi
    · simp [firstNmi_cons_of_nmi ds hd, hd]
    · simp [firstNmi_cons_of_ne ds hd, hd, ih]

theorem firstNmi_eq_some_iff (ds : List IODev) (j : Nat) :
    firstNmi ds = some j ↔
      (∃ d, ds[j]? = some d ∧ d.irq = some .nmi) ∧ ∀ k d, k < j → ds[k]? = some d → d.irq ≠ some .nmi := by
  induction ds generalizing j with
  | nil => simp
  | cons d ds ih =>
    cases j with
    | zero =>
      by_cases hd : d.irq = some .nmi
      · simp [firstNmi_cons_of_nmi ds hd, hd]
      · simp [firstNmi_cons_of_ne ds hd, hd]
    | succ j =>
      rw [forall_before_succ_cons (p := fun e : IODev => e.irq ≠ some .nmi)]
      by_cases hd : d.irq = some .nmi
      · simp [firstNmi_cons_of_nmi ds hd, hd]
      · simp [firstNmi_cons_of_ne ds hd, hd, ih]

/-! ### The first maskable request -/

@[simp] theorem firstInt_nil : firstInt [] = none := rfl

theorem firstInt_cons_of_int {d : IODev} {first : Byte} {rest : List Byte} (ds : List IODev)
    (hd : d.irq = some (.int first rest)) : firstInt (d :: ds) = some (0, first, rest) := by
  simp only [firstInt, hd]

theorem firstInt_cons_of_ne {d : IODev} (ds : List IODev) (hd : ∀ a b, d.irq ≠ some (.int a b)) :
    firstInt (d :: ds) = (firstInt ds).map fun l => (l.1 + 1, l.2) := by
  rw [firstInt]
  split
  next a b h => exact absurd h (hd a b)
  next => rfl

/-- A device asserts some maskable request, with its payload, or none. -/
theorem irq_int_or_ne (d : IODev) : (∃ a b, d.irq = some (.int a b)) ∨ ∀ a b, d.irq ≠ some (.int a b) := by
  by_cases h : ∃ a b, d.irq = some (.int a b)
  · exact .inl h
  · exact .inr fun a b hab => h ⟨a, b, hab⟩

theorem firstInt_eq_none_iff (ds : List IODev) : firstInt ds = none ↔ ∀ d ∈ ds, ∀ a b, d.irq ≠ some (.int a b) := by
  induction ds with
  | nil => simp
  | cons d ds ih =>
    rw [List.forall_mem_cons]
    rcases irq_int_or_ne d with ⟨a, b, hd⟩ | hd
    · simp [firstInt_cons_of_int ds hd, hd]
    · simp [firstInt_cons_of_ne ds hd, hd, ih]

theorem firstInt_eq_some_iff (ds : List IODev) (j : Nat) (first : Byte) (rest : List Byte) :
    firstInt ds = some (j, first, rest) ↔
      (∃ d, ds[j]? = some d ∧ d.irq = some (.int first rest))
      ∧ ∀ k d, k < j → ds[k]? = some d → ∀ a b, d.irq ≠ some (.int a b) := by
  induction ds generalizing j with
  | nil => simp
  | cons d ds ih =>
    cases j with
    | zero =>
      rcases irq_int_or_ne d with ⟨a, b, hd⟩ | hd
      · simp [firstInt_cons_of_int ds hd, hd]
      · simp [firstInt_cons_of_ne ds hd, hd]
    | succ j =>
      rw [forall_before_succ_cons (p := fun e : IODev => ∀ a b, e.irq ≠ some (.int a b))]
      rcases irq_int_or_ne d with ⟨a, b, hd⟩ | hd
      · simp [firstInt_cons_of_int ds hd, hd]
      · simp [firstInt_cons_of_ne ds hd, hd, ih]

/-! ### Which of the two wins -/

theorem arbitrate_of_nmi {ds : List IODev} {j : Nat} (iff1 : Bool) (h : firstNmi ds = some j) :
    arbitrate ds iff1 = some (j, .nmi) := by
  simp only [arbitrate, h]

theorem arbitrate_of_no_nmi {ds : List IODev} (iff1 : Bool) (h : firstNmi ds = none) :
    arbitrate ds iff1 = if iff1 then (firstInt ds).map fun l => (l.1, .int l.2.1 l.2.2) else none := by
  simp only [arbitrate, h]

theorem arbitrate_eq_nmi_iff (ds : List IODev) (iff1 : Bool) (j : Nat) :
    arbitrate ds iff1 = some (j, .nmi) ↔ firstNmi ds = some j := by
  cases h : firstNmi ds with
  | some i => simp [arbitrate_of_nmi iff1 h]
  | none => simp [arbitrate_of_no_nmi iff1 h]

theorem arbitrate_eq_int_iff (ds : List IODev) (iff1 : Bool) (j : Nat) (first : Byte) (rest : List Byte) :
    arbitrate ds iff1 = some (j, .int first rest) ↔
      iff1 = true ∧ firstNmi ds = none ∧ firstInt ds = some (j, first, rest) := by
  cases h : firstNmi ds with
  | some i => simp [arbitrate_of_nmi iff1 h]
  | none => cases iff1 <;> simp [arbitrate_of_no_nmi _ h]

theorem arbitrate_eq_none_iff (ds : List IODev) (iff1 : Bool) :
    arbitrate ds iff1 = none ↔ firstNmi ds = none ∧ (iff1 = true → firstInt ds = none) := by
  cases h : firstNmi ds with
  | some i => simp [arbitrate_of_nmi iff1 h]
  | none => cases iff1 <;> simp [arbitrate_of_no_nmi _ h]

/-- Settles O15: each outcome of `arbitrate` is one of `firstNmi` and `firstInt`, and each of these two scans is sound and
complete for the first device of its sort, by induction on the registry. -/
theorem arbitrationPicksByPriority : Obligations.ArbitrationPicksByPriority := by
  unfold Obligations.ArbitrationPicksByPriority
  refine fun ds iff1 => ⟨fun j => ?nmi, fun j first rest => ?maskable, ?nothing⟩
  case nmi => rw [arbitrate_eq_nmi_iff, firstNmi_eq_some_iff]
  case maskable => rw [arbitrate_eq_int_iff, firstNmi_eq_none_iff, firstInt_eq_some_iff]
  case nothing => rw [arbitrate_eq_none_iff, firstNmi_eq_none_iff, firstInt_eq_none_iff]

end Sys2Proof.Machine

/-! Decoder and encoder are inverse (R133). The decoder's tables are read by the fields `x`, `y`, `z` of an opcode byte (R102);
`LeadsTo` names the table entry that the first bytes of a list lead to (R101). -/

namespace Sys2Proof

/-! ### Fields and codes -/

section

variable (x : BitVec 2) (y z : BitVec 3)

@[simp] theorem opX_fields : opX (x ++ y ++ z) = x.toNat := by revert x y z; decide

@[simp] theorem opY_fields : opY (x ++ y ++ z) = y.toNat := by revert x y z; decide

@[simp] theorem opZ_fields : opZ (x ++ y ++ z) = z.toNat := by revert x y z; decide

@[simp] theorem extract_fields : (x ++ y ++ z).extractLsb' 3 3 = y := by revert x y z; decide

end

/-- Every byte is made of its fields. -/
theorem exists_fields (op : Byte) : ∃ (x : BitVec 2) (y z : BitVec 3), op = x ++ y ++ z := by
  refine ⟨op.extractLsb' 6 2, op.extractLsb' 3 3, op.extractLsb' 0 3, ?_⟩
  revert op
  decide

theorem bitVec2_cases (x : BitVec 2) : x = 0 ∨ x = 1 ∨ x = 2 ∨ x = 3 := by revert x; decide

theorem bitVec3_cases (y : BitVec 3) : y = 0 ∨ y = 1 ∨ y = 2 ∨ y = 3 ∨ y = 4 ∨ y = 5 ∨ y = 6 ∨ y = 7 := by
  revert y
  decide

@[simp] theorem Reg8.ofCode_code (r : Reg8) : Reg8.ofCode r.code.toNat = some r := by cases r <;> rfl

/-- Every word is made of two bytes. -/
theorem exists_wordOf (nn : Word) : ∃ lo hi, nn = wordOf lo hi := ⟨loByte nn, hiByte nn, (wordOf_lo_hi nn).symm⟩

/-! ### Decoding an encoding -/

/-- The decoder reads an instruction back from its encoding: at the operand values that choose the opcode byte by computation,
at a bit number by the fields of the byte, at a word by its two bytes. -/
theorem decode_encode_append (i : Instr) (rest : List Byte) : decode (encode i ++ rest) = .ok i rest := by
  cases i with
  | ldRegReg r q => cases r <;> cases q <;> rfl
  | ldRegImm r | ldRegIndHL r | ldRegIndIX r | ldRegIndIY r | ldIndHLReg r | ldIndIXReg _ r | ldIndIYReg _ r
  | addReg r | adcReg r | subReg r | sbcReg r | andReg r | xorReg r | orReg r | cpReg r | incReg r | decReg r
  | rlcReg r | rrcReg r | rlReg r | rrReg r | slaReg r | sraReg r | srlReg r | inRegC r | outCReg r => cases r <;> rfl
  | pushPair p | popPair p | addHLPair p | adcHLPair p | sbcHLPair p | addIXPair p | addIYPair p | incPair p | decPair p =>
    cases p <;> rfl
  | retCond cc => cases cc <;> rfl
  | rst t => rcases bitVec3_cases t with rfl | rfl | rfl | rfl | rfl | rfl | rfl | rfl <;> rfl
  | bitReg b r | setReg b r | resReg b r =>
    simp [encode, decode, decodeAfter, cbEntry, Entry.regOr, Entry.finish]
  | bitIndHL b | setIndHL b | resIndHL b =>
    simp [encode, decode, decodeAfter, cbEntry, Entry.regOr, Reg8.ofCode, Entry.finish]
  | bitIndIX b d | setIndIX b d | resIndIX b d => simp [encode, decode, decodeAfter, decodeIndexedCb, ddcbEntry]
  | bitIndIY b d | setIndIY b d | resIndIY b d => simp [encode, decode, decodeAfter, decodeIndexedCb, fdcbEntry]
  | ldAIndNN nn | ldIndNNA nn | ldIXImm nn | ldIYImm nn | ldHLIndNN nn | ldIXIndNN nn | ldIYIndNN nn | ldIndNNHL nn
  | ldIndNNIX nn | ldIndNNIY nn | jp nn | call nn =>
    obtain ⟨lo, hi, rfl⟩ := exists_wordOf nn
    rw [encode, loByte_wordOf, hiByte_wordOf]
    rfl
  | ldPairImm dd nn | ldPairIndNN dd nn | ldIndNNPair nn dd | jpCond dd nn | callCond dd nn =>
    obtain ⟨lo, hi, rfl⟩ := exists_wordOf nn
    rw [encode, loByte_wordOf, hiByte_wordOf]
    cases dd <;> rfl
  | _ => rfl

/-- Settles O1, by `decode_encode_append`. -/
theorem decodeInvertsEncode : Obligations.DecodeInvertsEncode := decode_encode_append

end Sys2Proof

namespace Sys2Proof

/-! ### Table entries -/

/-- The entry found after the bytes `seen` is a form whose encodings are `seen` and then its operand bytes. -/
def Entry.Encodes (seen : List Byte) : Entry → Prop
  | .empty => True
  | .op0 i => encode i = seen
  | .op1 f => ∀ n, encode (f n) = seen ++ [n]
  | .op2 f => ∀ m n, encode (f m n) = seen ++ [m, n]

/-- A choice by a register code encodes if the entry of each register does, and the entry of code 6. -/
theorem Entry.regOr_encodes {code : BitVec 3} {onReg : Reg8 → Entry} {other : Entry} {seen : BitVec 3 → List Byte}
    (hreg : ∀ r, (onReg r).Encodes (seen r.code)) (hother : other.Encodes (seen 6)) :
    (Entry.regOr code.toNat onReg other).Encodes (seen code) := by
  rcases bitVec3_cases code with rfl | rfl | rfl | rfl | rfl | rfl | rfl | rfl
  · exact hreg .b
  · exact hreg .c
  · exact hreg .d
  · exact hreg .e
  · exact hreg .h
  · exact hreg .l
  · exact hother
  · exact hreg .a

theorem aluReg_encode (y : BitVec 3) (r : Reg8) : encode (aluReg y.toNat r) = [2#2 ++ y ++ r.code] := by
  rcases bitVec3_cases y with rfl | rfl | rfl | rfl | rfl | rfl | rfl | rfl <;> cases r <;> rfl

theorem aluIndHL_encode (y : BitVec 3) : encode (aluIndHL y.toNat) = [2#2 ++ y ++ 6#3] := by
  rcases bitVec3_cases y with rfl | rfl | rfl | rfl | rfl | rfl | rfl | rfl <;> rfl

theorem aluIndIX_encode (y : BitVec 3) (d : Byte) : encode (aluIndIX y.toNat d) = [0xDD, 2#2 ++ y ++ 6#3, d] := by
  rcases bitVec3_cases y with rfl | rfl | rfl | rfl | rfl | rfl | rfl | rfl <;> rfl

theorem aluIndIY_encode (y : BitVec 3) (d : Byte) : encode (aluIndIY y.toNat d) = [0xFD, 2#2 ++ y ++ 6#3, d] := by
  rcases bitVec3_cases y with rfl | rfl | rfl | rfl | rfl | rfl | rfl | rfl <;> rfl

/-- An entry that takes a word, low byte first. -/
theorem Entry.word_encodes {seen : List Byte} (f : Word → Instr)
    (h : ∀ nn, encode (f nn) = seen ++ [loByte nn, hiByte nn]) :
    (Entry.op2 fun lo hi => f (wordOf lo hi)).Encodes seen := by
  intro lo hi
  rw [h, loByte_wordOf, hiByte_wordOf]

theorem baseEntry0_encodes (y z : BitVec 3) : (baseEntry0 (0#2 ++ y ++ z)).Encodes [0#2 ++ y ++ z] := by
  rcases bitVec3_cases z with rfl | rfl | rfl | rfl | rfl | rfl | rfl | rfl
  · rcases bitVec3_cases y with rfl | rfl | rfl | rfl | rfl | rfl | rfl | rfl
    exacts [rfl, rfl, fun _ => rfl, fun _ => rfl, fun _ => rfl, fun _ => rfl, fun _ => rfl, fun _ => rfl]
  · rcases bitVec3_cases y with rfl | rfl | rfl | rfl | rfl | rfl | rfl | rfl
    exacts [Entry.word_encodes (.ldPairImm .bc) fun _ => rfl, rfl, Entry.word_encodes (.ldPairImm .de) fun _ => rfl, rfl,
      Entry.word_encodes (.ldPairImm .hl) fun _ => rfl, rfl, Entry.word_encodes (.ldPairImm .sp) fun _ => rfl, rfl]
  · rcases bitVec3_cases y with rfl | rfl | rfl | rfl | rfl | rfl | rfl | rfl
    exacts [rfl, rfl, rfl, rfl, Entry.word_encodes .ldIndNNHL fun _ => rfl, Entry.word_encodes .ldHLIndNN fun _ => rfl,
      Entry.word_encodes .ldIndNNA fun _ => rfl, Entry.word_encodes .ldAIndNN fun _ => rfl]
  · rcases bitVec3_cases y with rfl | rfl | rfl | rfl | rfl | rfl | rfl | rfl <;> rfl
  · simp only [baseEntry0, opY_fields, opZ_fields]
    exact Entry.regOr_encodes (seen := fun y => [0#2 ++ y ++ 4#3]) (fun _ => rfl) rfl
  · simp only [baseEntry0, opY_fields, opZ_fields]
    exact Entry.regOr_encodes (seen := fun y => [0#2 ++ y ++ 5#3]) (fun _ => rfl) rfl
  · simp only [baseEntry0, opY_fields, opZ_fields]
    exact Entry.regOr_encodes (seen := fun y => [0#2 ++ y ++ 6#3]) (fun _ _ => rfl) (fun _ => rfl)
  · rcases bitVec3_cases y with rfl | rfl | rfl | rfl | rfl | rfl | rfl | rfl <;> rfl

theorem baseEntry1_encodes (y z : BitVec 3) : (baseEntry1 (1#2 ++ y ++ z)).Encodes [1#2 ++ y ++ z] := by
  rw [baseEntry1, opY_fields, opZ_fields]
  refine Entry.regOr_encodes (seen := fun y => [1#2 ++ y ++ z]) (fun r => ?_) ?_
  · exact Entry.regOr_encodes (seen := fun z => [1#2 ++ r.code ++ z]) (fun _ => rfl) rfl
  · refine Entry.regOr_encodes (seen := fun z => [1#2 ++ 6#3 ++ z]) (fun q => ?_) rfl
    cases q <;> rfl

theorem baseEntry2_encodes (y z : BitVec 3) : (baseEntry2 (2#2 ++ y ++ z)).Encodes [2#2 ++ y ++ z] := by
  rw [baseEntry2, opY_fields, opZ_fields]
  exact Entry.regOr_encodes (seen := fun z => [2#2 ++ y ++ z]) (aluReg_encode y) (aluIndHL_encode y)

theorem baseEntry3_encodes (y z : BitVec 3) : (baseEntry3 (3#2 ++ y ++ z)).Encodes [3#2 ++ y ++ z] := by
  rcases bitVec3_cases z with rfl | rfl | rfl | rfl | rfl | rfl | rfl | rfl
  · rcases bitVec3_cases y with rfl | rfl | rfl | rfl | rfl | rfl | rfl | rfl <;> rfl
  · rcases bitVec3_cases y with rfl | rfl | rfl | rfl | rfl | rfl | rfl | rfl <;> rfl
  · rcases bitVec3_cases y with rfl | rfl | rfl | rfl | rfl | rfl | rfl | rfl
    exacts [Entry.word_encodes (.jpCond .nz) fun _ => rfl, Entry.word_encodes (.jpCond .z) fun _ => rfl,
      Entry.word_encodes (.jpCond .nc) fun _ => rfl, Entry.word_encodes (.jpCond .c) fun _ => rfl,
      Entry.word_encodes (.jpCond .po) fun _ => rfl, Entry.word_encodes (.jpCond .pe) fun _ => rfl,
      Entry.word_encodes (.jpCond .p) fun _ => rfl, Entry.word_encodes (.jpCond .m) fun _ => rfl]
  · rcases bitVec3_cases y with rfl | rfl | rfl | rfl | rfl | rfl | rfl | rfl
    exacts [Entry.word_encodes .jp fun _ => rfl, trivial, fun _ => rfl, fun _ => rfl, rfl, rfl, rfl, rfl]
  · rcases bitVec3_cases y with rfl | rfl | rfl | rfl | rfl | rfl | rfl | rfl
    exacts [Entry.word_encodes (.callCond .nz) fun _ => rfl, Entry.word_encodes (.callCond .z) fun _ => rfl,
      Entry.word_encodes (.callCond .nc) fun _ => rfl, Entry.word_encodes (.callCond .c) fun _ => rfl,
      Entry.word_encodes (.callCond .po) fun _ => rfl, Entry.word_encodes (.callCond .pe) fun _ => rfl,
      Entry.word_encodes (.callCond .p) fun _ => rfl, Entry.word_encodes (.callCond .m) fun _ => rfl]
  · rcases bitVec3_cases y with rfl | rfl | rfl | rfl | rfl | rfl | rfl | rfl
    exacts [rfl, Entry.word_encodes .call fun _ => rfl, rfl, trivial, rfl, trivial, rfl, trivial]
  · rcases bitVec3_cases y with rfl | rfl | rfl | rfl | rfl | rfl | rfl | rfl <;> exact fun _ => rfl
  · rcases bitVec3_cases y with rfl | rfl | rfl | rfl | rfl | rfl | rfl | rfl <;> rfl

theorem baseEntry_encodes (op : Byte) : (baseEntry op).Encodes [op] := by
  obtain ⟨x, y, z, rfl⟩ := exists_fields op
  rw [baseEntry, opX_fields]
  rcases bitVec2_cases x with rfl | rfl | rfl | rfl
  · exact baseEntry0_encodes y z
  · exact baseEntry1_encodes y z
  · exact baseEntry2_encodes y z
  · exact baseEntry3_encodes y z

theorem cbEntry_encodes (op : Byte) : (cbEntry op).Encodes [0xCB, op] := by
  obtain ⟨x, y, z, rfl⟩ := exists_fields op
  rw [cbEntry, opX_fields, opY_fields, opZ_fields, extract_fields]
  rcases bitVec2_cases x with rfl | rfl | rfl | rfl
  · rcases bitVec3_cases y with rfl | rfl | rfl | rfl | rfl | rfl | rfl | rfl
    case inr.inr.inr.inr.inr.inr.inl => trivial
    all_goals
      refine Entry.regOr_encodes (seen := fun z => [0xCB, 0#2 ++ _ ++ z]) (fun r => ?_) rfl
      cases r <;> rfl
  · exact Entry.regOr_encodes (seen := fun z => [0xCB, 1#2 ++ y ++ z]) (fun _ => rfl) rfl
  · exact Entry.regOr_encodes (seen := fun z => [0xCB, 2#2 ++ y ++ z]) (fun _ => rfl) rfl
  · exact Entry.regOr_encodes (seen := fun z => [0xCB, 3#2 ++ y ++ z]) (fun _ => rfl) rfl

theorem edEntry1_encodes (y z : BitVec 3) : (edEntry1 (1#2 ++ y ++ z)).Encodes [0xED, 1#2 ++ y ++ z] := by
  rcases bitVec3_cases z with rfl | rfl | rfl | rfl | rfl | rfl | rfl | rfl
  · simp only [edEntry1, opY_fields, opZ_fields]
    exact Entry.regOr_encodes (seen := fun y => [0xED, 1#2 ++ y ++ 0#3]) (fun _ => rfl) trivial
  · simp only [edEntry1, opY_fields, opZ_fields]
    exact Entry.regOr_encodes (seen := fun y => [0xED, 1#2 ++ y ++ 1#3]) (fun _ => rfl) trivial
  · rcases bitVec3_cases y with rfl | rfl | rfl | rfl | rfl | rfl | rfl | rfl <;> rfl
  · rcases bitVec3_cases y with rfl | rfl | rfl | rfl | rfl | rfl | rfl | rfl
    exacts [Entry.word_encodes (.ldIndNNPair · .bc) fun _ => rfl, Entry.word_encodes (.ldPairIndNN .bc) fun _ => rfl,
      Entry.word_encodes (.ldIndNNPair · .de) fun _ => rfl, Entry.word_encodes (.ldPairIndNN .de) fun _ => rfl,
      Entry.word_encodes (.ldIndNNPair · .hl) fun _ => rfl, Entry.word_encodes (.ldPairIndNN .hl) fun _ => rfl,
      Entry.word_encodes (.ldIndNNPair · .sp) fun _ => rfl, Entry.word_encodes (.ldPairIndNN .sp) fun _ => rfl]
  · rcases bitVec3_cases y with rfl | rfl | rfl | rfl | rfl | rfl | rfl | rfl
    exacts [rfl, trivial, trivial, trivial, trivial, trivial, trivial, trivial]
  · rcases bitVec3_cases y with rfl | rfl | rfl | rfl | rfl | rfl | rfl | rfl
    exacts [rfl, rfl, trivial, trivial, trivial, trivial, trivial, trivial]
  · rcases bitVec3_cases y with rfl | rfl | rfl | rfl | rfl | rfl | rfl | rfl
    exacts [rfl, trivial, rfl, rfl, trivial, trivial, trivial, trivial]
  · rcases bitVec3_cases y with rfl | rfl | rfl | rfl | rfl | rfl | rfl | rfl
    exacts [rfl, rfl, rfl, rfl, rfl, rfl, trivial, trivial]

theorem edEntry2_encodes (y z : BitVec 3) : (edEntry2 (2#2 ++ y ++ z)).Encodes [0xED, 2#2 ++ y ++ z] := by
  rcases bitVec3_cases y with rfl | rfl | rfl | rfl | rfl | rfl | rfl | rfl
  case inl | inr.inl | inr.inr.inl | inr.inr.inr.inl => simp only [edEntry2, opY_fields]; trivial
  all_goals
    rcases bitVec3_cases z with rfl | rfl | rfl | rfl | rfl | rfl | rfl | rfl
    exacts [rfl, rfl, rfl, rfl, trivial, trivial, trivial, trivial]

theorem edEntry_encodes (op : Byte) : (edEntry op).Encodes [0xED, op] := by
  obtain ⟨x, y, z, rfl⟩ := exists_fields op
  rw [edEntry, opX_fields]
  rcases bitVec2_cases x with rfl | rfl | rfl | rfl
  · trivial
  · exact edEntry1_encodes y z
  · exact edEntry2_encodes y z
  · trivial

theorem ddEntry0_encodes (y z : BitVec 3) : (ddEntry0 (0#2 ++ y ++ z)).Encodes [0xDD, 0#2 ++ y ++ z] := by
  rcases bitVec3_cases z with rfl | rfl | rfl | rfl | rfl | rfl | rfl | rfl
  case inl | inr.inr.inr.inr.inr.inr.inr => simp only [ddEntry0, opZ_fields]; trivial
  · rcases bitVec3_cases y with rfl | rfl | rfl | rfl | rfl | rfl | rfl | rfl
    exacts [trivial, rfl, trivial, rfl, Entry.word_encodes .ldIXImm fun _ => rfl, rfl, trivial, rfl]
  · rcases bitVec3_cases y with rfl | rfl | rfl | rfl | rfl | rfl | rfl | rfl
    exacts [trivial, trivial, trivial, trivial, Entry.word_encodes .ldIndNNIX fun _ => rfl,
      Entry.word_encodes .ldIXIndNN fun _ => rfl, trivial, trivial]
  · rcases bitVec3_cases y with rfl | rfl | rfl | rfl | rfl | rfl | rfl | rfl
    exacts [trivial, trivial, trivial, trivial, rfl, rfl, trivial, trivial]
  · rcases bitVec3_cases y with rfl | rfl | rfl | rfl | rfl | rfl | rfl | rfl
    exacts [trivial, trivial, trivial, trivial, trivial, trivial, fun _ => rfl, trivial]
  · rcases bitVec3_cases y with rfl | rfl | rfl | rfl | rfl | rfl | rfl | rfl
    exacts [trivial, trivial, trivial, trivial, trivial, trivial, fun _ => rfl, trivial]
  · rcases bitVec3_cases y with rfl | rfl | rfl | rfl | rfl | rfl | rfl | rfl
    exacts [trivial, trivial, trivial, trivial, trivial, trivial, fun _ _ => rfl, trivial]

theorem ddEntry1_encodes (y z : BitVec 3) : (ddEntry1 (1#2 ++ y ++ z)).Encodes [0xDD, 1#2 ++ y ++ z] := by
  rw [ddEntry1, opY_fields, opZ_fields]
  refine Entry.regOr_encodes (seen := fun y => [0xDD, 1#2 ++ y ++ z]) (fun r => ?_) ?_
  · exact Entry.regOr_encodes (seen := fun z => [0xDD, 1#2 ++ r.code ++ z]) (fun _ => trivial) (fun _ => rfl)
  · refine Entry.regOr_encodes (seen := fun z => [0xDD, 1#2 ++ 6#3 ++ z]) (fun q _ => ?_) trivial
    cases q <;> rfl

theorem ddEntry3_encodes (y z : BitVec 3) : (ddEntry3 (3#2 ++ y ++ z)).Encodes [0xDD, 3#2 ++ y ++ z] := by
  rcases bitVec3_cases z with rfl | rfl | rfl | rfl | rfl | rfl | rfl | rfl
  case inl | inr.inr.inl | inr.inr.inr.inr.inl | inr.inr.inr.inr.inr.inr.inl | inr.inr.inr.inr.inr.inr.inr =>
    simp only [ddEntry3, opZ_fields]; trivial
  · rcases bitVec3_cases y with rfl | rfl | rfl | rfl | rfl | rfl | rfl | rfl
    exacts [trivial, trivial, trivial, trivial, rfl, rfl, trivial, rfl]
  · rcases bitVec3_cases y with rfl | rfl | rfl | rfl | rfl | rfl | rfl | rfl
    exacts [trivial, trivial, trivial, trivial, rfl, trivial, trivial, trivial]
  · rcases bitVec3_cases y with rfl | rfl | rfl | rfl | rfl | rfl | rfl | rfl
    exacts [trivial, trivial, trivial, trivial, rfl, trivial, trivial, trivial]

theorem ddEntry_encodes (op : Byte) : (ddEntry op).Encodes [0xDD, op] := by
  obtain ⟨x, y, z, rfl⟩ := exists_fields op
  rw [ddEntry, opX_fields, opY_fields, opZ_fields]
  rcases bitVec2_cases x with rfl | rfl | rfl | rfl
  · exact ddEntry0_encodes y z
  · exact ddEntry1_encodes y z
  · exact Entry.regOr_encodes (seen := fun z => [0xDD, 2#2 ++ y ++ z]) (fun _ => trivial) (aluIndIX_encode y)
  · exact ddEntry3_encodes y z

theorem fdEntry0_encodes (y z : BitVec 3) : (fdEntry0 (0#2 ++ y ++ z)).Encodes [0xFD, 0#2 ++ y ++ z] := by
  rcases bitVec3_cases z with rfl | rfl | rfl | rfl | rfl | rfl | rfl | rfl
  case inl | inr.inr.inr.inr.inr.inr.inr => simp only [fdEntry0, opZ_fields]; trivial
  · rcases bitVec3_cases y with rfl | rfl | rfl | rfl | rfl | rfl | rfl | rfl
    exacts [trivial, rfl, trivial, rfl, Entry.word_encodes .ldIYImm fun _ => rfl, rfl, trivial, rfl]
  · rcases bitVec3_cases y with rfl | rfl | rfl | rfl | rfl | rfl | rfl | rfl
    exacts [trivial, trivial, trivial, trivial, Entry.word_encodes .ldIndNNIY fun _ => rfl,
      Entry.word_encodes .ldIYIndNN fun _ => rfl, trivial, trivial]
  · rcases bitVec3_cases y with rfl | rfl | rfl | rfl | rfl | rfl | rfl | rfl
    exacts [trivial, trivial, trivial, trivial, rfl, rfl, trivial, trivial]
  · rcases bitVec3_cases y with rfl | rfl | rfl | rfl | rfl | rfl | rfl | rfl
    exacts [trivial, trivial, trivial, trivial, trivial, trivial, fun _ => rfl, trivial]
  · rcases bitVec3_cases y with rfl | rfl | rfl | rfl | rfl | rfl | rfl | rfl
    exacts [trivial, trivial, trivial, trivial, trivial, trivial, fun _ => rfl, trivial]
  · rcases bitVec3_cases y with rfl | rfl | rfl | rfl | rfl | rfl | rfl | rfl
    exacts [trivial, trivial, trivial, trivial, trivial, trivial, fun _ _ => rfl, trivial]

theorem fdEntry1_encodes (y z : BitVec 3) : (fdEntry1 (1#2 ++ y ++ z)).Encodes [0xFD, 1#2 ++ y ++ z] := by
  rw [fdEntry1, opY_fields, opZ_fields]
  refine Entry.regOr_encodes (seen := fun y => [0xFD, 1#2 ++ y ++ z]) (fun r => ?_) ?_
  · exact Entry.regOr_encodes (seen := fun z => [0xFD, 1#2 ++ r.code ++ z]) (fun _ => trivial) (fun _ => rfl)
  · refine Entry.regOr_encodes (seen := fun z => [0xFD, 1#2 ++ 6#3 ++ z]) (fun q _ => ?_) trivial
    cases q <;> rfl

theorem fdEntry3_encodes (y z : BitVec 3) : (fdEntry3 (3#2 ++ y ++ z)).Encodes [0xFD, 3#2 ++ y ++ z] := by
  rcases bitVec3_cases z with rfl | rfl | rfl | rfl | rfl | rfl | rfl | rfl
  case inl | inr.inr.inl | inr.inr.inr.inr.inl | inr.inr.inr.inr.inr.inr.inl | inr.inr.inr.inr.inr.inr.inr =>
    simp only [fdEntry3, opZ_fields]; trivial
  · rcases bitVec3_cases y with rfl | rfl | rfl | rfl | rfl | rfl | rfl | rfl
    exacts [trivial, trivial, trivial, trivial, rfl, rfl, trivial, rfl]
  · rcases bitVec3_cases y with rfl | rfl | rfl | rfl | rfl | rfl | rfl | rfl
    exacts [trivial, trivial, trivial, trivial, rfl, trivial, trivial, trivial]
  · rcases bitVec3_cases y with rfl | rfl | rfl | rfl | rfl | rfl | rfl | rfl
    exacts [trivial, trivial, trivial, trivial, rfl, trivial, trivial, trivial]

theorem fdEntry_encodes (op : Byte) : (fdEntry op).Encodes [0xFD, op] := by
  obtain ⟨x, y, z, rfl⟩ := exists_fields op
  rw [fdEntry, opX_fields, opY_fields, opZ_fields]
  rcases bitVec2_cases x with rfl | rfl | rfl | rfl
  · exact fdEntry0_encodes y z
  · exact fdEntry1_encodes y z
  · exact Entry.regOr_encodes (seen := fun z => [0xFD, 2#2 ++ y ++ z]) (fun _ => trivial) (aluIndIY_encode y)
  · exact fdEntry3_encodes y z

/-- What a fourth byte on DDCB or FDCB finds, once the displacement is given to it (R106). -/
def Entry.ofIndexed (f : Option (Byte → Instr)) (d : Byte) : Entry :=
  match f with
  | some f => .op0 (f d)
  | none => .empty

theorem ddcbEntry_encodes (op : Byte) (d : Byte) :
    (Entry.ofIndexed (ddcbEntry op) d).Encodes [0xDD, 0xCB, d, op] := by
  obtain ⟨x, y, z, rfl⟩ := exists_fields op
  rw [ddcbEntry, opX_fields, opY_fields, opZ_fields, extract_fields]
  rcases bitVec3_cases z with rfl | rfl | rfl | rfl | rfl | rfl | rfl | rfl
  case inr.inr.inr.inr.inr.inr.inl =>
    rcases bitVec2_cases x with rfl | rfl | rfl | rfl
    · rcases bitVec3_cases y with rfl | rfl | rfl | rfl | rfl | rfl | rfl | rfl
      exacts [rfl, rfl, rfl, rfl, rfl, rfl, trivial, rfl]
    all_goals rfl
  all_goals trivial

theorem fdcbEntry_encodes (op : Byte) (d : Byte) :
    (Entry.ofIndexed (fdcbEntry op) d).Encodes [0xFD, 0xCB, d, op] := by
  obtain ⟨x, y, z, rfl⟩ := exists_fields op
  rw [fdcbEntry, opX_fields, opY_fields, opZ_fields, extract_fields]
  rcases bitVec3_cases z with rfl | rfl | rfl | rfl | rfl | rfl | rfl | rfl
  case inr.inr.inr.inr.inr.inr.inl =>
    rcases bitVec2_cases x with rfl | rfl | rfl | rfl
    · rcases bitVec3_cases y with rfl | rfl | rfl | rfl | rfl | rfl | rfl | rfl
      exacts [rfl, rfl, rfl, rfl, rfl, rfl, trivial, rfl]
    all_goals rfl
  all_goals trivial

/-! ### The entry a list of bytes leads to -/

/-- The bytes `seen` are read to find the table entry `e` (R101). -/
inductive LeadsTo : List Byte → Entry → Prop
  | base (b : Byte) (hcb : b ≠ 0xCB) (hed : b ≠ 0xED) (hdd : b ≠ 0xDD) (hfd : b ≠ 0xFD) : LeadsTo [b] (baseEntry b)
  | cb (b : Byte) : LeadsTo [0xCB, b] (cbEntry b)
  | ed (b : Byte) : LeadsTo [0xED, b] (edEntry b)
  | dd (b : Byte) (hcb : b ≠ 0xCB) : LeadsTo [0xDD, b] (ddEntry b)
  | fd (b : Byte) (hcb : b ≠ 0xCB) : LeadsTo [0xFD, b] (fdEntry b)
  | ddcb (d b : Byte) : LeadsTo [0xDD, 0xCB, d, b] (.ofIndexed (ddcbEntry b) d)
  | fdcb (d b : Byte) : LeadsTo [0xFD, 0xCB, d, b] (.ofIndexed (fdcbEntry b) d)

/-- The decoder reads the operands of the entry that the first bytes lead to. -/
theorem LeadsTo.decode_append {seen : List Byte} {e : Entry} (h : LeadsTo seen e) (bs : List Byte) :
    decode (seen ++ bs) = e.finish seen bs := by
  cases h with
  | base b hcb hed hdd hfd =>
    unfold decode decodeAfter
    exact (if_neg hcb).trans ((if_neg hed).trans ((if_neg hdd).trans (if_neg hfd)))
  | cb b | ed b => rfl
  | dd b hcb | fd b hcb => exact if_neg hcb
  | ddcb d b =>
    simp only [List.cons_append, List.nil_append, decode, decodeAfter, decodeIndexedCb, Entry.ofIndexed]
    cases ddcbEntry b <;> rfl
  | fdcb d b =>
    simp only [List.cons_append, List.nil_append, decode, decodeAfter, decodeIndexedCb, Entry.ofIndexed]
    cases fdcbEntry b <;> rfl

/-- The bytes of a list lead to an entry, or they end before one is found; then they are at most three. -/
theorem leadsTo_or_incomplete (bs : List Byte) :
    (∃ seen e rest, bs = seen ++ rest ∧ LeadsTo seen e) ∨ decode bs = .incomplete ∧ bs.length < 4 := by
  match bs with
  | [] => exact .inr ⟨rfl, by simp⟩
  | b0 :: bs =>
    by_cases hcb : b0 = 0xCB
    · subst hcb
      match bs with
      | [] => exact .inr ⟨rfl, by simp⟩
      | b :: rest => exact .inl ⟨_, _, rest, rfl, .cb b⟩
    by_cases hed : b0 = 0xED
    · subst hed
      match bs with
      | [] => exact .inr ⟨rfl, by simp⟩
      | b :: rest => exact .inl ⟨_, _, rest, rfl, .ed b⟩
    by_cases hdd : b0 = 0xDD
    · subst hdd
      match bs with
      | [] => exact .inr ⟨rfl, by simp⟩
      | b :: rest =>
        by_cases hb : b = 0xCB
        · subst hb
          match rest with
          | [] => exact .inr ⟨rfl, by simp⟩
          | [d] => exact .inr ⟨rfl, by simp⟩
          | d :: c :: rest => exact .inl ⟨_, _, rest, rfl, .ddcb d c⟩
        · exact .inl ⟨_, _, rest, rfl, .dd b hb⟩
    by_cases hfd : b0 = 0xFD
    · subst hfd
      match bs with
      | [] => exact .inr ⟨rfl, by simp⟩
      | b :: rest =>
        by_cases hb : b = 0xCB
        · subst hb
          match rest with
          | [] => exact .inr ⟨rfl, by simp⟩
          | [d] => exact .inr ⟨rfl, by simp⟩
          | d :: c :: rest => exact .inl ⟨_, _, rest, rfl, .fdcb d c⟩
        · exact .inl ⟨_, _, rest, rfl, .fd b hb⟩
    exact .inl ⟨_, _, bs, rfl, .base b0 hcb hed hdd hfd⟩

/-- The entry a list of bytes leads to is the one of the instructions whose encodings begin so. -/
theorem LeadsTo.encodes {seen : List Byte} {e : Entry} (h : LeadsTo seen e) : e.Encodes seen := by
  cases h with
  | base b => exact baseEntry_encodes b
  | cb b => exact cbEntry_encodes b
  | ed b => exact edEntry_encodes b
  | dd b => exact ddEntry_encodes b
  | fd b => exact fdEntry_encodes b
  | ddcb d b => exact ddcbEntry_encodes b d
  | fdcb d b => exact fdcbEntry_encodes b d

/-! ### What reading the operands of an entry answers -/

theorem Entry.encode_append_of_finish {e : Entry} {seen bs rest : List Byte} {i : Instr} (he : e.Encodes seen)
    (h : e.finish seen bs = .ok i rest) : encode i ++ rest = seen ++ bs := by
  cases e with
  | empty => cases h
  | op0 j =>
    cases h
    rw [show encode i = seen from he]
  | op1 f =>
    match bs with
    | [] => cases h
    | n :: rest' =>
      cases h
      rw [he n, List.append_assoc, List.singleton_append]
  | op2 f =>
    match bs with
    | [] => cases h
    | [_] => cases h
    | m :: n :: rest' =>
      cases h
      rw [he m n, List.append_assoc]
      rfl

theorem Entry.finish_eq_invalid {e : Entry} {seen bs named : List Byte} (h : e.finish seen bs = .invalid named) :
    e = .empty ∧ named = seen := by
  cases e with
  | empty => cases h; exact ⟨rfl, rfl⟩
  | op0 j => cases h
  | op1 f => match bs with
    | [] => cases h
    | _ :: _ => cases h
  | op2 f => match bs with
    | [] => cases h
    | [_] => cases h
    | _ :: _ :: _ => cases h

/-- The bytes an instruction was read from are its encoding. -/
theorem encode_append_of_decode {bs rest : List Byte} {i : Instr} (h : decode bs = .ok i rest) : encode i ++ rest = bs := by
  rcases leadsTo_or_incomplete bs with ⟨seen, e, bs', rfl, hl⟩ | ⟨hi, -⟩
  · rw [hl.decode_append] at h
    exact Entry.encode_append_of_finish hl.encodes h
  · rw [hi] at h
    cases h

/-- Settles O2, by `encode_append_of_decode`: every table entry is the form whose encodings lead to it. -/
theorem encodeInvertsDecode : Obligations.EncodeInvertsDecode := fun _ _ _ => encode_append_of_decode

/-! ### More bytes -/

/-- An outcome of the decoder when the list goes on with `more`. -/
def Decoded.followedBy (more : List Byte) : Decoded → Decoded
  | .ok i rest => .ok i (rest ++ more)
  | .incomplete => .incomplete
  | .invalid seen => .invalid seen

theorem Entry.finish_append {e : Entry} {seen bs : List Byte} (more : List Byte) (h : e.finish seen bs ≠ .incomplete) :
    e.finish seen (bs ++ more) = (e.finish seen bs).followedBy more := by
  cases e with
  | empty | op0 => rfl
  | op1 f => match bs with
    | [] => exact absurd rfl h
    | _ :: _ => rfl
  | op2 f => match bs with
    | [] => exact absurd rfl h
    | [_] => exact absurd rfl h
    | _ :: _ :: _ => rfl

/-- Once the decoder has an answer, more bytes do not change it. -/
theorem decode_append {bs : List Byte} (more : List Byte) (h : decode bs ≠ .incomplete) :
    decode (bs ++ more) = (decode bs).followedBy more := by
  rcases leadsTo_or_incomplete bs with ⟨seen, e, rest, rfl, hl⟩ | ⟨hi, -⟩
  · rw [hl.decode_append] at h ⊢
    rw [List.append_assoc, hl.decode_append, Entry.finish_append more h]
  · exact absurd hi h

/-- A list that an answer needs more bytes than is incomplete: every shorter beginning of an encoding. -/
theorem decode_take_incomplete_of_ok {bs : List Byte} {i : Instr} {k : Nat} (h : decode bs = .ok i []) (hk : k < bs.length) :
    decode (bs.take k) = .incomplete := by
  by_contra hne
  have happ := decode_append (bs.drop k) hne
  rw [List.take_append_drop, h] at happ
  cases hd : decode (bs.take k) with
  | ok j rest =>
    rw [hd] at happ
    simp only [Decoded.followedBy, Decoded.ok.injEq] at happ
    have hlen := congrArg List.length happ.2
    simp only [List.length_nil, List.length_append, List.length_drop] at hlen
    omega
  | incomplete => exact hne hd
  | invalid seen => rw [hd] at happ; cases happ

/-- An entry that waits for operand bytes has at most one of them. -/
theorem Entry.length_lt_of_finish {e : Entry} {seen bs : List Byte} (h : e.finish seen bs = .incomplete) : bs.length < 2 := by
  cases e with
  | empty | op0 => cases h
  | op1 f => match bs with
    | [] => simp
    | _ :: _ => cases h
  | op2 f => match bs with
    | [] => simp
    | [_] => simp
    | _ :: _ :: _ => cases h

theorem Entry.finish_ofIndexed_ne (f : Option (Byte → Instr)) (d : Byte) (seen bs : List Byte) :
    (Entry.ofIndexed f d).finish seen bs ≠ .incomplete := by
  cases f <;> exact Decoded.noConfusion

/-- With four bytes the decoder has an answer (R108). -/
theorem length_lt_of_incomplete {bs : List Byte} (h : decode bs = .incomplete) : bs.length < 4 := by
  rcases leadsTo_or_incomplete bs with ⟨seen, e, rest, rfl, hl⟩ | ⟨-, hlen⟩
  · rw [hl.decode_append] at h
    have hrest := Entry.length_lt_of_finish h
    cases hl with
    | base | cb | ed | dd | fd =>
      simp only [List.length_append, List.length_cons, List.length_nil]
      omega
    | ddcb | fdcb => exact absurd h (Entry.finish_ofIndexed_ne _ _ _ _)
  · exact hlen

/-! ### Refusals -/

/-- Whether an entry is empty (R100). -/
def Entry.isEmpty : Entry → Bool
  | .empty => true
  | _ => false

/-- On the base page only the four bytes that lead on to another page are empty (R101, R123). -/
theorem baseEntry_isEmpty_iff (b : Byte) :
    (baseEntry b).isEmpty = true ↔ b = 0xCB ∨ b = 0xED ∨ b = 0xDD ∨ b = 0xFD := by
  revert b
  decide

theorem LeadsTo.length_of_isEmpty {seen : List Byte} {e : Entry} (h : LeadsTo seen e) (he : e.isEmpty = true) :
    seen.length = 2 ∨ seen.length = 4 ∧ (seen.take 2 = [0xDD, 0xCB] ∨ seen.take 2 = [0xFD, 0xCB]) := by
  cases h with
  | base b hcb hed hdd hfd =>
    rcases (baseEntry_isEmpty_iff b).mp he with h | h | h | h
    exacts [absurd h hcb, absurd h hed, absurd h hdd, absurd h hfd]
  | cb | ed | dd | fd => exact .inl rfl
  | ddcb => exact .inr ⟨rfl, .inl rfl⟩
  | fdcb => exact .inr ⟨rfl, .inr rfl⟩

/-- The bytes a refusal names are the ones read to find an empty entry. -/
theorem leadsTo_of_invalid {bs seen : List Byte} (h : decode bs = .invalid seen) :
    LeadsTo seen .empty ∧ ∃ rest, bs = seen ++ rest := by
  rcases leadsTo_or_incomplete bs with ⟨seen', e, rest, rfl, hl⟩ | ⟨hi, -⟩
  · rw [hl.decode_append] at h
    obtain ⟨rfl, rfl⟩ := Entry.finish_eq_invalid h
    exact ⟨hl, rest, rfl⟩
  · rw [hi] at h
    cases h

/-- The bytes before the last one a refusal names lead to no answer yet. -/
theorem decode_take_incomplete_of_invalid {bs seen : List Byte} {k : Nat} (h : decode bs = .invalid seen)
    (hk : k < seen.length) : decode (bs.take k) = .incomplete := by
  by_contra hne
  have happ := decode_append (bs.drop k) hne
  rw [List.take_append_drop, h] at happ
  cases hd : decode (bs.take k) with
  | ok j rest => rw [hd] at happ; cases happ
  | incomplete => exact hne hd
  | invalid seen' =>
    rw [hd] at happ
    cases happ
    obtain ⟨-, rest, hrest⟩ := leadsTo_of_invalid hd
    have hlen := congrArg List.length hrest
    simp only [List.length_append, List.length_take] at hlen
    omega

/-- Settles O3: a refusal is an empty entry, and the bytes named are those that lead to it. -/
theorem refusedBytesAreNamed : Obligations.RefusedBytesAreNamed := by
  intro bs seen h
  obtain ⟨hl, rest, rfl⟩ := leadsTo_of_invalid h
  refine ⟨List.prefix_append seen rest, hl.length_of_isEmpty rfl, fun k => ?shorter, fun rest' => ?longer⟩
  case shorter => exact decode_take_incomplete_of_invalid h
  case longer => exact hl.decode_append rest'

/-- Settles O4, by running the decoder on the ten byte sequences. -/
theorem sampleWordsDecode : Obligations.SampleWordsDecode := by
  unfold Obligations.SampleWordsDecode
  decide

end Sys2Proof

/-! Byte and port accesses, by the device they reach, and `load` as a series of them (R65 to R67, R84 to R87, R566). -/

namespace Sys2Proof.Machine

/-! ### Byte accesses -/

section

variable {s : State} {a : Nat} {l : Located}

theorem readAt_unmapped (h : resolve s.memdevs a = none) : readAt s a = .error (.unmappedAddress a) := by
  simp only [readAt, h]

theorem writeAt_unmapped (v : Byte) (h : resolve s.memdevs a = none) : writeAt s a v = .error (.unmappedAddress a) := by
  simp only [writeAt, h]

theorem readAt_plain (h : resolve s.memdevs a = some l) (hp : plainKind l.dev.kind = true) :
    readAt s a = .ok (s.mem.read a, s) := by
  simp only [readAt, h]
  cases hk : l.dev.kind with
  | ram | rom => rfl
  | custom ro id => rw [hk] at hp; cases hp

theorem writeAt_readonly (v : Byte) (h : resolve s.memdevs a = some l) (hro : l.dev.readonly = true) :
    writeAt s a v = .error (.readOnlyWrite a) := by
  simp only [writeAt, h, hro, if_true]

theorem writeAt_ram (v : Byte) (h : resolve s.memdevs a = some l) (hk : l.dev.kind = .ram) :
    writeAt s a v = .ok { s with mem := s.mem.write a v } := by
  simp [writeAt, h, MemDev.readonly, hk]

theorem readAt_custom_ok {ro : Bool} {id n : Nat} {v : Byte} (h : resolve s.memdevs a = some l)
    (hk : l.dev.kind = .custom ro id) (hd : Config.memDevRead id l.dev.internal l.offset = .ok (v, n)) :
    readAt s a = .ok (v, s.setMemInternal l.index n) := by
  simp only [readAt, h, hk, hd]

theorem readAt_custom_error {ro : Bool} {id : Nat} {e : String} (h : resolve s.memdevs a = some l)
    (hk : l.dev.kind = .custom ro id) (hd : Config.memDevRead id l.dev.internal l.offset = .error e) :
    readAt s a = .error (.executionError e) := by
  simp only [readAt, h, hk, hd]

theorem writeAt_custom_ok {id n : Nat} {v : Byte} (h : resolve s.memdevs a = some l)
    (hk : l.dev.kind = .custom false id) (hd : Config.memDevWrite id l.dev.internal l.offset v = .ok n) :
    writeAt s a v = .ok (s.setMemInternal l.index n) := by
  simp [writeAt, h, MemDev.readonly, hk, hd]

theorem writeAt_custom_error {id : Nat} {v : Byte} {e : String} (h : resolve s.memdevs a = some l)
    (hk : l.dev.kind = .custom false id) (hd : Config.memDevWrite id l.dev.internal l.offset v = .error e) :
    writeAt s a v = .error (.executionError e) := by
  simp [writeAt, h, MemDev.readonly, hk, hd]

/-- A mapped address is never reported as unmapped. -/
theorem readAt_ne_unmapped (h : resolve s.memdevs a = some l) : readAt s a ≠ .error (.unmappedAddress a) := by
  cases hk : l.dev.kind with
  | ram | rom => simp [readAt_plain h (by rw [hk]; rfl)]
  | custom ro id =>
    cases hd : Config.memDevRead id l.dev.internal l.offset with
    | ok r => simp [readAt_custom_ok h hk hd]
    | error e => simp [readAt_custom_error h hk hd]

theorem writeAt_ne_unmapped (v : Byte) (h : resolve s.memdevs a = some l) :
    writeAt s a v ≠ .error (.unmappedAddress a) := by
  cases hk : l.dev.kind with
  | ram => simp [writeAt_ram v h hk]
  | rom => simp [writeAt_readonly v h (by rw [MemDev.readonly, hk])]
  | custom ro id =>
    cases ro with
    | true => simp [writeAt_readonly v h (by rw [MemDev.readonly, hk])]
    | false =>
      cases hd : Config.memDevWrite id l.dev.internal l.offset v with
      | ok n => simp [writeAt_custom_ok h hk hd]
      | error e => simp [writeAt_custom_error h hk hd]

/-- A custom device's new internal state goes to its own place of `MEMDEVS`. -/
theorem setMemInternal_eq_set (n : Nat) (h : resolve s.memdevs a = some l) :
    s.setMemInternal l.index n = { s with memdevs := s.memdevs.set l.index { l.dev with internal := n } } := by
  obtain ⟨hdev, -⟩ := resolve_placement h
  rw [State.setMemInternal, List.modify_eq_set_getElem?, hdev]
  rfl

end

/-- Settles O8: each clause is the access of one sort of device. -/
theorem byteAccesses : Obligations.ByteAccesses := by
  intro s a v
  refine ⟨⟨fun h => ?readUnmapped, fun h => readAt_unmapped ((resolve_eq_none_iff _ _).mpr h)⟩,
    ⟨fun h => ?writeUnmapped, fun h => writeAt_unmapped v ((resolve_eq_none_iff _ _).mpr h)⟩,
    fun l hl => ⟨readAt_plain hl, writeAt_readonly v hl, fun hk => ?ram, fun ro id hk => ?custom⟩⟩
  case readUnmapped =>
    rw [← resolve_eq_none_iff, Option.eq_none_iff_forall_not_mem]
    exact fun l hl => readAt_ne_unmapped hl h
  case writeUnmapped =>
    rw [← resolve_eq_none_iff, Option.eq_none_iff_forall_not_mem]
    exact fun l hl => writeAt_ne_unmapped v hl h
  case ram =>
    refine ⟨_, writeAt_ram v hl hk, rfl, fun k hk' => Memory.read_write_other _ _ hk', fun hw => ?_⟩
    have hread : (s.mem.write a v).read a = v := by rw [Memory.read_write hw, if_pos rfl]
    refine ⟨Memory.wf_write hw a v, hread, ?_⟩
    rw [readAt_plain (s := { s with mem := s.mem.write a v }) hl (by rw [hk]; rfl), hread]
  case custom =>
    refine ⟨fun w n h => ?_, fun e h => readAt_custom_error hl hk h, ?_, ?_⟩
    · rw [readAt_custom_ok hl hk h, setMemInternal_eq_set n hl]
    · rintro rfl n h
      rw [writeAt_custom_ok hl hk h, setMemInternal_eq_set n hl]
    · rintro rfl e h
      exact writeAt_custom_error hl hk h

/-! ### Port accesses -/

/-- A device whose port list has the port is found, unless one before it is. -/
theorem owner_cons (d : IODev) (ds : List IODev) (p : Port) :
    owner (d :: ds) p = if p ∈ d.ports then some (0, d) else (owner ds p).map fun l => (l.1 + 1, l.2) := by
  simp only [owner, List.contains_iff_mem]

theorem owner_eq_none_iff (ds : List IODev) (p : Port) : owner ds p = none ↔ ∀ d ∈ ds, p ∉ d.ports := by
  induction ds with
  | nil => simp [owner]
  | cons d ds ih =>
    rw [owner_cons, List.forall_mem_cons]
    by_cases hp : p ∈ d.ports
    · simp [hp]
    · simp [hp, ih]

/-- In a well-formed registry a port claimed by the first device is claimed by no other. -/
theorem not_mem_ports_of_wellFormed {d : IODev} {ds : List IODev} {p : Port} (h : iodevsWellFormed (d :: ds) = true)
    (hp : p ∈ d.ports) : ∀ e ∈ ds, p ∉ e.ports := by
  intro e he
  simp only [iodevsWellFormed, Bool.and_eq_true, List.all_eq_true, portsApart] at h
  simpa using h.1.2 e he p hp

/-- In a well-formed registry the device that claims a port owns it (R84, R85). -/
theorem owner_of_claims {ds : List IODev} {p : Port} {k : Nat} {d : IODev} (hw : iodevsWellFormed ds = true)
    (hd : ds[k]? = some d) (hp : p ∈ d.ports) : owner ds p = some (k, d) := by
  induction ds generalizing k with
  | nil => simp at hd
  | cons e ds ih =>
    rw [owner_cons]
    cases k with
    | zero =>
      cases hd
      rw [if_pos hp]
    | succ k =>
      have hmem : d ∈ ds := List.mem_of_getElem? hd
      have hwds : iodevsWellFormed ds = true := by
        simp only [iodevsWellFormed, Bool.and_eq_true] at hw
        exact hw.2
      rw [if_neg fun hpe => not_mem_ports_of_wellFormed hw hpe d hmem hp, ih hwds hd]
      rfl

/-- Settles O9: with no two devices on one port, `owner` finds the device that claims it. -/
theorem portAccesses : Obligations.PortAccesses := by
  intro s p v hw
  refine ⟨fun hnone => ?unclaimed, fun k d hd hp => ?claimed⟩
  case unclaimed =>
    have ho := (owner_eq_none_iff s.iodevs p).mpr hnone
    simp only [portRead, portWrite, ho, and_self]
  case claimed =>
    have ho := owner_of_claims hw hd hp
    refine ⟨fun w e h => ?_, fun e h => ?_, fun e h => ?_, fun e h => ?_⟩
    · simp only [portRead, ho, h, State.setIODev]
    · simp only [portRead, ho, h]
    · simp only [portWrite, ho, h, State.setIODev]
    · simp only [portWrite, ho, h]

/-! ### Loading an image -/

/-- The error `load` reports at a global offset of RAM and ROM devices, if any (R566). -/
def loadError (ds : List MemDev) (k : Nat) : Option Fault :=
  match resolve ds k with
  | none => some (.outOfBounds k)
  | some l => if l.dev.kind = .rom then some (.readOnlyWrite k) else none

/-- The byte at global offset `k` of RAM and ROM devices once an image is loaded from `i` on (R566). -/
def loadedByte (s : State) (i : Nat) (bytes : List Byte) (k : Nat) : Byte :=
  if i ≤ k ∧ kindAt s.memdevs k = some .ram then bytes[k - i]?.getD (s.mem.read k) else s.mem.read k

/-- What loading a byte at `i` leaves: the byte written if there is RAM, the state as it was if not. -/
def afterLoadByte (s : State) (i : Nat) (v : Byte) : State :=
  if kindAt s.memdevs i = some .ram then { s with mem := s.mem.write i v } else s

@[simp] theorem afterLoadByte_memdevs (s : State) (i : Nat) (v : Byte) : (afterLoadByte s i v).memdevs = s.memdevs := by
  unfold afterLoadByte
  split <;> rfl

theorem afterLoadByte_eq (s : State) (i : Nat) (v : Byte) :
    afterLoadByte s i v = { s with mem := (afterLoadByte s i v).mem } := by
  unfold afterLoadByte
  split <;> rfl

theorem afterLoadByte_wf {s : State} (i : Nat) (v : Byte) (hw : s.mem.wf = true) :
    (afterLoadByte s i v).mem.wf = true := by
  unfold afterLoadByte
  split
  · exact Memory.wf_write hw i v
  · exact hw

theorem afterLoadByte_read {s : State} (i : Nat) (v : Byte) (k : Nat) (hw : s.mem.wf = true) :
    (afterLoadByte s i v).mem.read k = if k = i ∧ kindAt s.memdevs i = some .ram then v else s.mem.read k := by
  unfold afterLoadByte
  by_cases hram : kindAt s.memdevs i = some .ram
  · simp [hram, Memory.read_write hw]
  · simp [hram]

/-- A RAM or ROM configuration has no device, RAM or ROM at an address. -/
theorem resolve_plain_cases {ds : List MemDev} (hp : ∀ d ∈ ds, plainKind d.kind = true) (a : Nat) :
    resolve ds a = none ∨ (∃ l, resolve ds a = some l ∧ l.dev.kind = .ram)
      ∨ ∃ l, resolve ds a = some l ∧ l.dev.kind = .rom := by
  cases hr : resolve ds a with
  | none => exact .inl rfl
  | some l =>
    have hl := hp l.dev (List.mem_of_getElem? (resolve_placement hr).1)
    cases hk : l.dev.kind with
    | ram => exact .inr (.inl ⟨l, rfl, hk⟩)
    | rom => exact .inr (.inr ⟨l, rfl, hk⟩)
    | custom ro id => rw [hk] at hl; cases hl

/-- Loading a list is loading its first byte, then the others one offset higher. -/
theorem loadFrom_cons {s : State} (i : Nat) (v : Byte) (vs : List Byte)
    (hp : ∀ d ∈ s.memdevs, plainKind d.kind = true) :
    loadFrom i (v :: vs) s = ((loadError s.memdevs i).toList ++ (loadFrom (i + 1) vs (afterLoadByte s i v)).1,
      (loadFrom (i + 1) vs (afterLoadByte s i v)).2) := by
  obtain hr | ⟨l, hr, hk⟩ | ⟨l, hr, hk⟩ := resolve_plain_cases hp i
  · simp [loadFrom, loadError, afterLoadByte, kindAt, hr, writeAt_unmapped v hr]
  · simp [loadFrom, loadError, afterLoadByte, kindAt, hr, hk, writeAt_ram v hr hk]
  · have hw := writeAt_readonly v hr (by rw [MemDev.readonly, hk])
    simp [loadFrom, loadError, afterLoadByte, kindAt, hr, hk, hw]

theorem loadedByte_afterLoadByte {s : State} (i : Nat) (v : Byte) (vs : List Byte) (k : Nat) (hw : s.mem.wf = true) :
    loadedByte (afterLoadByte s i v) (i + 1) vs k = loadedByte s i (v :: vs) k := by
  simp only [loadedByte, afterLoadByte_memdevs, afterLoadByte_read i v k hw]
  rcases Nat.lt_trichotomy k i with hlt | rfl | hgt
  · rw [if_neg (by omega), if_neg (by omega), if_neg (by omega)]
  · simp
  · obtain ⟨j, rfl⟩ := Nat.exists_eq_add_of_lt hgt
    have hidx : i + j + 1 - i = j + 1 := by omega
    have hidx' : i + j + 1 - (i + 1) = j := by omega
    rw [hidx, hidx', List.getElem?_cons_succ, if_neg (by omega : ¬ (i + j + 1 = i ∧ _))]
    simp only [show i + 1 ≤ i + j + 1 by omega, show i ≤ i + j + 1 by omega]

/-- What `load` does on RAM and ROM devices, from any offset on. -/
theorem loadFrom_plain (bytes : List Byte) : ∀ (i : Nat) (s : State), s.mem.wf = true →
    (∀ d ∈ s.memdevs, plainKind d.kind = true) →
    (loadFrom i bytes s).2 = { s with mem := (loadFrom i bytes s).2.mem }
    ∧ (loadFrom i bytes s).2.mem.wf = true
    ∧ (∀ k, (loadFrom i bytes s).2.mem.read k = loadedByte s i bytes k)
    ∧ (loadFrom i bytes s).1 = (List.range' i bytes.length).filterMap (loadError s.memdevs) := by
  induction bytes with
  | nil => exact fun i s hw hp => ⟨rfl, hw, fun k => by simp [loadFrom, loadedByte], rfl⟩
  | cons v vs ih =>
    intro i s hw hp
    obtain ⟨hframe, hwf, hread, herr⟩ := ih (i + 1) (afterLoadByte s i v) (afterLoadByte_wf i v hw)
      (by rwa [afterLoadByte_memdevs])
    rw [loadFrom_cons i v vs hp]
    refine ⟨?_, hwf, fun k => ?_, ?_⟩
    · rw [hframe, afterLoadByte_eq]
    · rw [hread, loadedByte_afterLoadByte i v vs k hw]
    · rw [herr, afterLoadByte_memdevs, List.length_cons, List.range'_succ, List.filterMap_cons]
      cases loadError s.memdevs i <;> rfl

/-- Settles O10: `load` from offset 0 on, by `loadFrom_plain`. -/
theorem loadPlacesTheImage : Obligations.LoadPlacesTheImage := by
  intro s bytes hw hp
  obtain ⟨hframe, hwf, hread, herr⟩ := loadFrom_plain bytes 0 s hw hp
  refine ⟨hframe, hwf, fun k => ?_, ?_⟩
  · rw [load, hread, loadedByte, Nat.sub_zero]
    cases hb : bytes[k]? with
    | none => simp
    | some v =>
      cases hr : resolve s.memdevs k with
      | none => simp [kindAt, hr]
      | some l => simp [kindAt, hr]
  · rw [load, herr, List.range_eq_range']
    rfl

end Sys2Proof.Machine

/-! What an instruction can do, as a series of accesses: `Runs` says which accesses an outcome is made of and what holds of the
state it ends in. It is proved once for every instruction (`exec_runs`); completion, the invariant, ROM and the control state
follow by induction on it. -/

namespace Sys2Proof.Machine

/-- `t` has the memory and the devices of `s`. -/
def SameStore (s t : State) : Prop := t.mem = s.mem ∧ t.memdevs = s.memdevs ∧ t.iodevs = s.iodevs

/-- The outcome is made, from `s` on, of byte accesses, of port accesses where `ports` is true, and of updates of registers
between them; where it ends, `P` holds. -/
inductive Runs (ports : Bool) (P : State → Prop) : State → Res → Prop
  | done {s t : State} (hs : SameStore s t) (hp : P t) : Runs ports P s (.next t)
  | registers {s u : State} {o : Res} (hs : SameStore s u) (h : Runs ports P u o) : Runs ports P s o
  | read {s : State} {a : Word} {k : Byte × State → Res}
      (h : ∀ v m, Runs ports P { s with memdevs := m } (k (v, { s with memdevs := m }))) :
      Runs ports P s (andThen (readByte s a) k)
  | write {s : State} {a : Word} {v : Byte} {k : State → Res}
      (h : ∀ b m, Runs ports P { s with mem := b, memdevs := m } (k { s with mem := b, memdevs := m })) :
      Runs ports P s (andThen (writeByte s a v) k)
  | portRead {s : State} {p : Port} {k : Byte × State → Res} (hp : ports = true)
      (h : ∀ v d, Runs ports P { s with iodevs := d } (k (v, { s with iodevs := d }))) :
      Runs ports P s (andThen (portRead s p) k)
  | portWrite {s : State} {p : Port} {v : Byte} {k : State → Res} (hp : ports = true)
      (h : ∀ d, Runs ports P { s with iodevs := d } (k { s with iodevs := d })) :
      Runs ports P s (andThen (portWrite s p v) k)

namespace Runs

variable {ports : Bool} {P : State → Prop} {s : State} {a : Word} {len : Nat}

/-! ### The shared operations are such series -/

theorem readWord {k : Word × State → Res}
    (h : ∀ v m, Runs ports P { s with memdevs := m } (k (v, { s with memdevs := m }))) :
    Runs ports P s (andThen (readWord s a) k) := by
  have e : andThen (Machine.readWord s a) k = andThen (readByte s a) fun r =>
      andThen (readByte r.2 (a + 1#16)) fun q => k (wordOf r.1 q.1, q.2) := by
    rw [Machine.readWord]
    cases readByte s a with
    | error f => rfl
    | ok r =>
      simp only [andThen_ok]
      cases readByte r.2 (a + 1#16) <;> rfl
  rw [e]
  exact .read fun _ _ => .read fun _ _ => h _ _

theorem writeWord {v : Word} {k : State → Res}
    (h : ∀ b m, Runs ports P { s with mem := b, memdevs := m } (k { s with mem := b, memdevs := m })) :
    Runs ports P s (andThen (writeWord s a v) k) := by
  have e : andThen (Machine.writeWord s a v) k = andThen (writeByte s a (loByte v)) fun s1 =>
      andThen (writeByte s1 (a + 1#16) (hiByte v)) k := by
    rw [Machine.writeWord]
    cases writeByte s a (loByte v) <;> rfl
  rw [e]
  exact .write fun _ _ => .write fun _ _ => h _ _

theorem push16 {v : Word} {k : State → Res}
    (h : ∀ b m, Runs ports P { s with sp := s.sp - 2#16, mem := b, memdevs := m }
      (k { s with sp := s.sp - 2#16, mem := b, memdevs := m })) : Runs ports P s (andThen (push16 s v) k) :=
  .registers (u := { s with sp := s.sp - 2#16 }) ⟨rfl, rfl, rfl⟩ (.writeWord h)

theorem pop16 {k : Word × State → Res}
    (h : ∀ v m, Runs ports P { s with memdevs := m } (k (v, { s with sp := s.sp + 2#16, memdevs := m }))) :
    Runs ports P s (andThen (pop16 s) k) := by
  have e : andThen (Machine.pop16 s) k = andThen (Machine.readWord s s.sp) fun r =>
      k (r.1, { r.2 with sp := r.2.sp + 2#16 }) := by
    rw [Machine.pop16]
    cases Machine.readWord s s.sp <;> rfl
  rw [e]
  exact .readWord h

/-- The state an instruction ends in, the memory and the devices being those of `s`. -/
def Ends (P : State → Prop) (s t : State) : Prop := SameStore s t ∧ P t

theorem next {t : State} (h : Ends P s t) : Runs ports P s (.next t) := .done h.1 h.2

theorem loadByte {k : Byte → State → State}
    (h : ∀ v m, Ends P { s with memdevs := m } ((k v { s with memdevs := m }).retire len)) :
    Runs ports P s (loadByte s a len k) :=
  .read fun v m => .next (h v m)

theorem storeByte {v : Byte}
    (h : ∀ b m, Ends P { s with mem := b, memdevs := m } (State.retire { s with mem := b, memdevs := m } len)) :
    Runs ports P s (storeByte s a len v) :=
  .write fun b m => .next (h b m)

theorem loadWord {k : Word → State → State}
    (h : ∀ v m, Ends P { s with memdevs := m } ((k v { s with memdevs := m }).retire len)) :
    Runs ports P s (loadWord s a len k) :=
  .readWord fun v m => .next (h v m)

theorem storeWord {v : Word}
    (h : ∀ b m, Ends P { s with mem := b, memdevs := m } (State.retire { s with mem := b, memdevs := m } len)) :
    Runs ports P s (storeWord s a len v) :=
  .writeWord fun b m => .next (h b m)

theorem modifyByte {f : Byte → Byte}
    (h : ∀ b m, Ends P { s with mem := b, memdevs := m } (State.retire { s with mem := b, memdevs := m } len)) :
    Runs ports P s (modifyByte s a len f) :=
  .read fun _ _ => .write fun b m => .next (h b m)

theorem modifyByteFlags {f : Byte → Byte × Flags}
    (h : ∀ g b m, Ends P { s with mem := b, memdevs := m }
      ((State.setFlags { s with mem := b, memdevs := m } g).retire len)) :
    Runs ports P s (modifyByteFlags s a len f) :=
  .read fun _ _ => .write fun b m => .next (h _ b m)

theorem pushWord {v : Word}
    (h : ∀ b m, Ends P { s with sp := s.sp - 2#16, mem := b, memdevs := m }
      (State.retire { s with sp := s.sp - 2#16, mem := b, memdevs := m } len)) : Runs ports P s (pushWord s len v) :=
  .push16 fun b m => .next (h b m)

theorem popWord {k : Word → State → State}
    (h : ∀ v m, Ends P { s with memdevs := m } ((k v { s with sp := s.sp + 2#16, memdevs := m }).retire len)) :
    Runs ports P s (popWord s len k) :=
  .pop16 fun v m => .next (h v m)

theorem exchangeStackTop {v : Word} {k : Word → State → State}
    (h : ∀ w b m, Ends P { s with mem := b, memdevs := m } ((k w { s with mem := b, memdevs := m }).retire len)) :
    Runs ports P s (exchangeStackTop s len v k) :=
  .readWord fun w _ => .writeWord fun b m => .next (h w b m)

theorem callTo {target : Word}
    (h : ∀ b m, Ends P { s with sp := s.sp - 2#16, mem := b, memdevs := m }
      (State.retireTo { s with sp := s.sp - 2#16, mem := b, memdevs := m } target)) :
    Runs ports P s (callTo s len target) :=
  .push16 fun b m => .next (h b m)

theorem popPc {g : State → State}
    (h : ∀ v m, Ends P { s with memdevs := m } (g (State.retireTo { s with sp := s.sp + 2#16, memdevs := m } v))) :
    Runs ports P s (andThen (popPc s) fun s1 => .next (g s1)) := by
  have e : (andThen (Machine.popPc s) fun s1 => .next (g s1))
      = andThen (Machine.pop16 s) fun r => .next (g (r.2.retireTo r.1)) := by
    rw [Machine.popPc]
    cases Machine.pop16 s <;> rfl
  rw [e]
  exact .pop16 fun v m => .next (h v m)

theorem digitRotate {toMem toAcc : Byte → Byte → Byte}
    (h : ∀ res b m, Ends P { s with mem := b, memdevs := m }
      ((State.withAcc { s with mem := b, memdevs := m } res).retire 2)) :
    Runs ports P s (digitRotate s toMem toAcc) :=
  .read fun _ _ => .write fun b m => .next (h _ b m)

theorem moveOne {step : Word} {g : State → State} (hg : ∀ u, SameStore u (g u))
    (h : ∀ t b m, P (g (State.afterMove { s with mem := b, memdevs := m } step t))) :
    Runs ports P s (andThen (moveOne s step) fun s1 => .next (g s1)) := by
  have e : (andThen (Machine.moveOne s step) fun s1 => .next (g s1)) = andThen (readByte s s.main.hl) fun r =>
      andThen (writeByte r.2 s.main.de r.1) fun s2 => .next (g (s2.afterMove step r.1)) := by
    rw [Machine.moveOne]
    cases readByte s s.main.hl with
    | error f => rfl
    | ok r =>
      simp only [andThen_ok]
      cases writeByte r.2 s.main.de r.1 <;> rfl
  rw [e]
  exact .read fun t _ => .write fun b m => .done (hg _) (h t b m)

theorem compareOne {step : Word} {g : Byte × State → State} (hg : ∀ r, SameStore r.2 (g r))
    (h : ∀ t m, P (g ((sub8 s.a t false).1, State.afterCompare { s with memdevs := m } step t))) :
    Runs ports P s (andThen (compareOne s step) fun r => .next (g r)) := by
  have e : (andThen (Machine.compareOne s step) fun r => .next (g r)) = andThen (readByte s s.main.hl) fun r =>
      .next (g ((sub8 s.a r.1 false).1, r.2.afterCompare step r.1)) := by
    rw [Machine.compareOne]
    cases readByte s s.main.hl <;> rfl
  rw [e]
  exact .read fun t m => .done (hg _) (h t m)

theorem inputOne {step : Word} {g : State → State} (hp : ports = true) (hg : ∀ u, SameStore u (g u))
    (h : ∀ b m d, P (g (State.afterIo { s with mem := b, memdevs := m, iodevs := d } step))) :
    Runs ports P s (andThen (inputOne s step) fun s1 => .next (g s1)) := by
  have e : (andThen (Machine.inputOne s step) fun s1 => .next (g s1)) = andThen (Machine.portRead s s.main.c) fun r =>
      andThen (writeByte r.2 s.hl r.1) fun s2 => .next (g (s2.afterIo step)) := by
    rw [Machine.inputOne]
    cases Machine.portRead s s.main.c with
    | error f => rfl
    | ok r =>
      simp only [andThen_ok]
      cases writeByte r.2 s.hl r.1 <;> rfl
  rw [e]
  exact .portRead hp fun _ d => .write fun b m => .done (hg _) (h b m d)

theorem outputOne {step : Word} {g : State → State} (hp : ports = true) (hg : ∀ u, SameStore u (g u))
    (h : ∀ m d, P (g (State.afterIo { s with memdevs := m, iodevs := d } step))) :
    Runs ports P s (andThen (outputOne s step) fun s1 => .next (g s1)) := by
  have e : (andThen (Machine.outputOne s step) fun s1 => .next (g s1)) = andThen (readByte s s.hl) fun r =>
      andThen (Machine.portWrite r.2 s.main.c r.1) fun s2 => .next (g (s2.afterIo step)) := by
    rw [Machine.outputOne]
    cases readByte s s.hl with
    | error f => rfl
    | ok r =>
      simp only [andThen_ok]
      cases Machine.portWrite r.2 s.main.c r.1 <;> rfl
  rw [e]
  exact .read fun _ m => .portWrite hp fun d => .done (hg _) (h m d)

end Runs

/-- The registers that only some instructions write, and `R` and the source of the next instruction, which all write. -/
structure Control where
  ix : Word
  iy : Word
  i : Byte
  r : Byte
  iff1 : Bool
  iff2 : Bool
  im : IntMode
  halted : Bool
  source : Source

/-- Those registers of a state. -/
def State.control (s : State) : Control := ⟨s.ix, s.iy, s.i, s.r, s.iff1, s.iff2, s.im, s.halted, s.source⟩

/-- What instruction `i` keeps of those registers from `s` to `t`, and that it counts `R` once. -/
def Keeps (i : Instr) (s t : State) : Prop :=
  t.control = {
    ix := bif writesIX i then t.ix else s.ix
    iy := bif writesIY i then t.iy else s.iy
    i := bif decide (i = .ldIA) then t.i else s.i
    r := bumpR (bif decide (i = .ldRA) then s.main.a else s.r)
    iff1 := bif decide (i = .di) || decide (i = .ei) || decide (i = .retn) then t.iff1 else s.iff1
    iff2 := bif decide (i = .di) || decide (i = .ei) then t.iff2 else s.iff2
    im := bif decide (i = .im0) || decide (i = .im1) || decide (i = .im2) then t.im else s.im
    halted := bif decide (i = .halt) then true else s.halted
    source := .memory }

theorem exec_runs (i : Instr) (s : State) : Runs (usesPorts i) (Keeps i s) s (exec i s) := by
  cases i with
  | ldRegReg | ldRegImm | ldAI | ldAR | ldIA | ldRA | ldIXImm | ldIYImm | ldSPHL | ldSPIX | ldSPIY | exDEHL | exAFAF | exx
  | addReg | addImm | adcReg | adcImm | subReg | subImm | sbcReg | sbcImm | andReg | andImm | xorReg | xorImm | orReg | orImm
  | cpReg | cpImm | incReg | decReg | daa | cpl | neg | ccf | scf | nop | halt | di | ei | im0 | im1 | im2 | addHLPair
  | adcHLPair | sbcHLPair | addIXPair | addIYPair | incIX | incIY | decIX | decIY | rlca | rla | rrca | rra | rlcReg | rrcReg
  | rlReg | rrReg | slaReg | sraReg | srlReg | bitReg | setReg | resReg | jp | jpCond | jr | jrC | jrNC | jrZ | jrNZ | jpHL
  | jpIX | jpIY | djnz => exact .next ⟨⟨rfl, rfl, rfl⟩, rfl⟩
  | ldPairImm p | incPair p | decPair p => cases p <;> exact .next ⟨⟨rfl, rfl, rfl⟩, rfl⟩
  | ldRegIndHL r | ldRegIndIX r | ldRegIndIY r =>
    exact .loadByte (k := fun v s1 => s1.setReg8 r v) fun _ _ => ⟨⟨rfl, rfl, rfl⟩, rfl⟩
  | ldAIndBC | ldAIndDE | ldAIndNN => exact .loadByte (k := fun v s1 => s1.setReg8 .a v) fun _ _ => ⟨⟨rfl, rfl, rfl⟩, rfl⟩
  | addIndHL | addIndIX | addIndIY | adcIndHL | adcIndIX | adcIndIY | subIndHL | subIndIX | subIndIY | sbcIndHL | sbcIndIX
  | sbcIndIY | andIndHL | andIndIX | andIndIY | xorIndHL | xorIndIX | xorIndIY | orIndHL | orIndIX | orIndIY | cpIndHL | cpIndIX | cpIndIY | bitIndHL | bitIndIX
  | bitIndIY => exact .loadByte fun _ _ => ⟨⟨rfl, rfl, rfl⟩, rfl⟩
  | ldIndHLReg | ldIndIXReg | ldIndIYReg | ldIndHLImm | ldIndIXImm | ldIndIYImm | ldIndBCA | ldIndDEA | ldIndNNA =>
    exact .storeByte fun _ _ => ⟨⟨rfl, rfl, rfl⟩, rfl⟩
  | ldHLIndNN => exact .loadWord (k := fun v s1 => s1.setPair .hl v) fun _ _ => ⟨⟨rfl, rfl, rfl⟩, rfl⟩
  | ldIXIndNN => exact .loadWord (k := fun v s1 => s1.setIndex .ix v) fun _ _ => ⟨⟨rfl, rfl, rfl⟩, rfl⟩
  | ldIYIndNN => exact .loadWord (k := fun v s1 => s1.setIndex .iy v) fun _ _ => ⟨⟨rfl, rfl, rfl⟩, rfl⟩
  | ldPairIndNN p => cases p <;> exact .loadWord (k := fun v s1 => s1.setPair _ v) fun _ _ => ⟨⟨rfl, rfl, rfl⟩, rfl⟩
  | ldIndNNHL | ldIndNNPair | ldIndNNIX | ldIndNNIY => exact .storeWord fun _ _ => ⟨⟨rfl, rfl, rfl⟩, rfl⟩
  | pushPair | pushIX | pushIY => exact .pushWord fun _ _ => ⟨⟨rfl, rfl, rfl⟩, rfl⟩
  | popPair p => cases p <;> exact .popWord (k := fun v s1 => s1.setStackPair _ v) fun _ _ => ⟨⟨rfl, rfl, rfl⟩, rfl⟩
  | popIX => exact .popWord (k := fun v s1 => s1.setIndex .ix v) fun _ _ => ⟨⟨rfl, rfl, rfl⟩, rfl⟩
  | popIY => exact .popWord (k := fun v s1 => s1.setIndex .iy v) fun _ _ => ⟨⟨rfl, rfl, rfl⟩, rfl⟩
  | exIndSPHL => exact .exchangeStackTop (k := fun v s1 => s1.setPair .hl v) fun _ _ _ => ⟨⟨rfl, rfl, rfl⟩, rfl⟩
  | exIndSPIX => exact .exchangeStackTop (k := fun v s1 => s1.setIndex .ix v) fun _ _ _ => ⟨⟨rfl, rfl, rfl⟩, rfl⟩
  | exIndSPIY => exact .exchangeStackTop (k := fun v s1 => s1.setIndex .iy v) fun _ _ _ => ⟨⟨rfl, rfl, rfl⟩, rfl⟩
  | ldi | ldir | ldd | lddr => exact .moveOne (fun _ => ⟨rfl, rfl, rfl⟩) fun _ _ _ => rfl
  | cpi | cpir | cpd | cpdr => exact .compareOne (fun _ => ⟨rfl, rfl, rfl⟩) fun _ _ => rfl
  | incIndHL | incIndIX | incIndIY | decIndHL | decIndIX | decIndIY | rlcIndHL | rlcIndIX | rlcIndIY | rrcIndHL | rrcIndIX
  | rrcIndIY | rlIndHL | rlIndIX | rlIndIY | rrIndHL | rrIndIX | rrIndIY | slaIndHL | slaIndIX | slaIndIY | sraIndHL
  | sraIndIX | sraIndIY | srlIndHL | srlIndIX | srlIndIY => exact .modifyByteFlags fun _ _ _ => ⟨⟨rfl, rfl, rfl⟩, rfl⟩
  | rld => dsimp only [exec, execRld]; exact .digitRotate fun _ _ _ => ⟨⟨rfl, rfl, rfl⟩, rfl⟩
  | rrd => dsimp only [exec, execRrd]; exact .digitRotate fun _ _ _ => ⟨⟨rfl, rfl, rfl⟩, rfl⟩
  | setIndHL | setIndIX | setIndIY | resIndHL | resIndIX | resIndIY =>
    exact .modifyByte fun _ _ => ⟨⟨rfl, rfl, rfl⟩, rfl⟩
  | call | rst => exact .callTo fun _ _ => ⟨⟨rfl, rfl, rfl⟩, rfl⟩
  | callCond cc nn =>
    by_cases h : s.flags.cond cc = true
    · simp only [exec, execCallCond, if_pos h]
      exact .callTo fun _ _ => ⟨⟨rfl, rfl, rfl⟩, rfl⟩
    · simp only [exec, execCallCond, if_neg h]
      exact .next ⟨⟨rfl, rfl, rfl⟩, rfl⟩
  | ret | reti => exact .popPc (g := id) fun _ _ => ⟨⟨rfl, rfl, rfl⟩, rfl⟩
  | retCond cc =>
    by_cases h : s.flags.cond cc = true
    · simp only [exec, execRetCond, if_pos h]
      exact .popPc (g := id) fun _ _ => ⟨⟨rfl, rfl, rfl⟩, rfl⟩
    · simp only [exec, execRetCond, if_neg h]
      exact .next ⟨⟨rfl, rfl, rfl⟩, rfl⟩
  | retn => exact .popPc fun _ _ => ⟨⟨rfl, rfl, rfl⟩, rfl⟩
  | inAImm | inRegC => exact .portRead rfl fun _ _ => .next ⟨⟨rfl, rfl, rfl⟩, rfl⟩
  | outImmA | outCReg => exact .portWrite rfl fun _ => .next ⟨⟨rfl, rfl, rfl⟩, rfl⟩
  | ini | inir | ind | indr => exact .inputOne rfl (fun _ => ⟨rfl, rfl, rfl⟩) fun _ _ _ => rfl
  | outi | otir | outd | otdr => exact .outputOne rfl (fun _ => ⟨rfl, rfl, rfl⟩) fun _ _ => rfl

end Sys2Proof.Machine

/-! What follows from `exec_runs` for every instruction, and from it for every step: no refusal, completion on RAM, the writers of
the control state, the invariant, and ROM. -/

namespace Sys2Proof.Machine

/-! ### Every instruction -/

theorem andThen_ne_refused {α : Type} {e : Except Fault α} {k : α → Res} {r : Refusal}
    (h : ∀ a, e = .ok a → k a ≠ .refused r) : andThen e k ≠ .refused r := by
  cases e with
  | ok a => exact h a rfl
  | error f => simp

/-- A series of accesses ends in a state or a fault. -/
theorem Runs.ne_refused {ports : Bool} {P : State → Prop} {s : State} {o : Res} (h : Runs ports P s o) (r : Refusal) :
    o ≠ .refused r := by
  induction h with
  | done => simp
  | registers _ _ ih => exact ih
  | read _ ih =>
    refine andThen_ne_refused fun ⟨v, u⟩ hu => ?_
    rw [(readByte_frame hu).1]
    exact ih v u.memdevs
  | write _ ih =>
    refine andThen_ne_refused fun u hu => ?_
    rw [(writeByte_frame hu).1.1]
    exact ih u.mem u.memdevs
  | portRead _ _ ih =>
    refine andThen_ne_refused fun ⟨v, u⟩ hu => ?_
    rw [(portRead_frame hu).1]
    exact ih v u.iodevs
  | portWrite _ _ ih =>
    refine andThen_ne_refused fun u hu => ?_
    rw [(portWrite_frame hu).1]
    exact ih u.iodevs

/-- What the registers have no part in, and no access made where `ports` is true or not changes. -/
structure KeptByAccesses (ports : Bool) (R : State → Prop) : Prop where
  registers : ∀ {s t}, SameStore s t → R s → R t
  read : ∀ {s t a v}, readByte s a = .ok (v, t) → R s → R t
  write : ∀ {s t a v}, writeByte s a v = .ok t → R s → R t
  portRead : ports = true → ∀ {s t p v}, portRead s p = .ok (v, t) → R s → R t
  portWrite : ports = true → ∀ {s t p v}, portWrite s p v = .ok t → R s → R t

/-- What every access keeps holds of the state a series of them ends in, and so does what its end guarantees. -/
theorem Runs.next_keeps {ports : Bool} {P R : State → Prop} (hR : KeptByAccesses ports R) {s t : State} {o : Res}
    (h : Runs ports P s o) (ho : o = .next t) (hs : R s) : R t ∧ P t := by
  induction h with
  | done hst hp =>
    cases ho
    exact ⟨hR.registers hst hs, hp⟩
  | registers hsu _ ih => exact ih ho (hR.registers hsu hs)
  | read _ ih =>
    obtain ⟨⟨v, u⟩, hu, hk⟩ := andThen_next ho
    have e := (readByte_frame hu).1
    exact ih v u.memdevs (by rw [← e]; exact hk) (by rw [← e]; exact hR.read hu hs)
  | write _ ih =>
    obtain ⟨u, hu, hk⟩ := andThen_next ho
    have e := (writeByte_frame hu).1.1
    exact ih u.mem u.memdevs (by rw [← e]; exact hk) (by rw [← e]; exact hR.write hu hs)
  | portRead hp _ ih =>
    obtain ⟨⟨v, u⟩, hu, hk⟩ := andThen_next ho
    have e := (portRead_frame hu).1
    exact ih v u.iodevs (by rw [← e]; exact hk) (by rw [← e]; exact hR.portRead hp hu hs)
  | portWrite hp _ ih =>
    obtain ⟨u, hu, hk⟩ := andThen_next ho
    have e := (portWrite_frame hu).1
    exact ih u.iodevs (by rw [← e]; exact hk) (by rw [← e]; exact hR.portWrite hp hu hs)

theorem exec_ne_refused (i : Instr) (s : State) (r : Refusal) : exec i s ≠ .refused r := (exec_runs i s).ne_refused r

theorem exec_next_keeps {i : Instr} {s t : State} {R : State → Prop} (hR : KeptByAccesses (usesPorts i) R)
    (h : exec i s = .next t) (hs : R s) : R t ∧ Keeps i s t :=
  (exec_runs i s).next_keeps hR h hs

theorem keeps_of_exec {i : Instr} {s t : State} (h : exec i s = .next t) : Keeps i s t :=
  (exec_next_keeps (R := fun _ => True) ⟨fun _ h => h, fun _ h => h, fun _ h => h, fun _ _ _ _ _ _ h => h,
    fun _ _ _ _ _ _ h => h⟩ h trivial).2

/-! ### The writers of the control state -/

/-- Without port accesses the I/O devices stay as they were. -/
theorem iodevs_keptByAccesses (ds : List IODev) : KeptByAccesses false fun u => u.iodevs = ds where
  registers hst h := hst.2.2.trans h
  read hr h := by
    rw [(readByte_frame hr).1]
    exact h
  write hw h := by
    rw [(writeByte_frame hw).1.1]
    exact h
  portRead hp := by cases hp
  portWrite hp := by cases hp

/-- Settles O24: the control state by `Keeps`, the I/O devices by the absence of port accesses. -/
theorem controlStateWriters : Obligations.ControlStateWriters := by
  intro i s t h
  have hk : Keeps i s t := keeps_of_exec h
  simp only [Keeps, State.control, Control.mk.injEq] at hk
  obtain ⟨hix, hiy, hi, -, hiff1, hiff2, him, hhalted, -⟩ := hk
  refine ⟨fun h1 => ?_, fun h1 h2 h3 => ?_, fun h1 h2 => ?_, fun h1 h2 h3 => ?_, fun h1 => ?_, fun h1 => ?_, fun h1 => ?_,
    fun h1 => ?_, fun h1 => ?_⟩
  · simpa [h1] using hi
  · simpa [h1, h2, h3] using hiff1
  · simpa [h1, h2] using hiff2
  · simpa [h1, h2, h3] using him
  · simpa [h1] using hhalted
  · simpa [h1] using hhalted
  · exact (exec_next_keeps (R := fun u => u.iodevs = s.iodevs) (h1 ▸ iodevs_keptByAccesses s.iodevs) h rfl).1
  · simpa [h1] using hix
  · simpa [h1] using hiy

/-- Settles O25, by `Keeps`: `R` is counted once, from the value `LD R,A` puts there or the one it had. -/
theorem refreshCountsOnce : Obligations.RefreshCountsOnce := by
  intro i s t h
  have hr : t.r = bumpR (bif decide (i = .ldRA) then s.main.a else s.r) := congrArg Control.r (keeps_of_exec h)
  rw [bumpR_eq_refreshed] at hr
  refine ⟨fun hi => ?_, fun hi => ?_⟩
  · simpa [hi] using hr
  · simpa [hi] using hr

/-! ### Completion -/

/-- Every port is claimed, and every I/O device is of the test kind, which reports no error. -/
def PortsAnswer (s : State) : Prop :=
  (∀ p : Port, ∃ d ∈ s.iodevs, p ∈ d.ports) ∧ ∀ d ∈ s.iodevs, ∃ v received q n, d.kind = .test v received q n

/-- Some device owns a claimed port. -/
theorem PortsAnswer.owner {s : State} (h : PortsAnswer s) (p : Port) :
    ∃ k d v received q n, owner s.iodevs p = some (k, d) ∧ d.kind = .test v received q n := by
  obtain ⟨e, he, hp⟩ := h.1 p
  cases ho : Machine.owner s.iodevs p with
  | none => exact absurd hp ((owner_eq_none_iff s.iodevs p).mp ho e he)
  | some r =>
    obtain ⟨v, received, q, n, hd⟩ := h.2 r.2 (List.mem_of_getElem? (owner_some ho).1)
    exact ⟨r.1, r.2, v, received, q, n, rfl, hd⟩

/-- Putting a test device with the same ports in place of an owner keeps that every port answers. -/
theorem PortsAnswer.setIODev {s : State} (h : PortsAnswer s) {p : Port} {k : Nat} {d e : IODev}
    (ho : Machine.owner s.iodevs p = some (k, d)) (hports : e.ports = d.ports)
    (hkind : ∃ v received q n, e.kind = .test v received q n) : PortsAnswer (s.setIODev k e) := by
  have hshape : (s.iodevs.set k e).map IODev.ports = s.iodevs.map IODev.ports := (portFrame_set ho hports).2
  refine ⟨fun q => ?_, fun c hc => ?_⟩
  · obtain ⟨c, hc, hq⟩ := h.1 q
    have hmem : c.ports ∈ (s.iodevs.set k e).map IODev.ports := by
      rw [hshape]
      exact List.mem_map_of_mem hc
    obtain ⟨c', hc', hcc⟩ := List.mem_map.mp hmem
    exact ⟨c', hc', hcc ▸ hq⟩
  · rcases List.mem_or_eq_of_mem_set hc with hc | rfl
    · exact h.2 c hc
    · exact hkind

theorem PortsAnswer.portRead {s : State} (h : PortsAnswer s) (p : Port) :
    ∃ v t, portRead s p = .ok (v, t) ∧ PortsAnswer t := by
  obtain ⟨k, d, v, received, q, n, ho, hd⟩ := h.owner p
  refine ⟨v, s.setIODev k d, ?_, h.setIODev ho rfl ⟨_, _, _, _, hd⟩⟩
  simp only [Machine.portRead, ho, IODev.portIn, hd]

theorem PortsAnswer.portWrite {s : State} (h : PortsAnswer s) (p : Port) (w : Byte) :
    ∃ t, portWrite s p w = .ok t ∧ PortsAnswer t := by
  obtain ⟨k, d, v, received, q, n, ho, hd⟩ := h.owner p
  refine ⟨s.setIODev k { d with kind := .test v (received ++ [(p, w)]) q n }, ?_, h.setIODev ho rfl ⟨_, _, _, _, rfl⟩⟩
  simp only [Machine.portWrite, ho, IODev.portOut, hd]

/-- With RAM everywhere, and every port answering if ports are accessed, a series of accesses completes. -/
theorem Runs.completes {ports : Bool} {P : State → Prop} {s : State} {o : Res} (h : Runs ports P s o)
    (hram : ∀ a, RamAt s a) (hports : ports = true → PortsAnswer s) : ∃ t, o = .next t := by
  induction h with
  | done => exact ⟨_, rfl⟩
  | registers hsu _ ih =>
    obtain ⟨-, hd, hi⟩ := hsu
    refine ih (fun a => ?_) fun hp => ?_
    · rw [RamAt, hd]
      exact hram a
    · rw [PortsAnswer, hi]
      exact hports hp
  | @read s a _ _ ih =>
    rw [readByte_plain (hram a).plain]
    exact ih _ s.memdevs hram hports
  | @write s a v _ _ ih =>
    rw [writeByte_ram v (hram a)]
    exact ih _ s.memdevs hram hports
  | @portRead s p _ hp _ ih =>
    obtain ⟨v, t, ht, hans⟩ := (hports hp).portRead p
    rw [ht, (portRead_frame ht).1]
    exact ih v t.iodevs hram fun _ => hans
  | @portWrite s p v _ hp _ ih =>
    obtain ⟨t, ht, hans⟩ := (hports hp).portWrite p v
    rw [ht, (portWrite_frame ht).1]
    exact ih t.iodevs hram fun _ => hans

/-- Settles O22, by `Runs.completes`. -/
theorem everyInstructionCompletes : Obligations.EveryInstructionCompletes :=
  fun i s hram hports => (exec_runs i s).completes hram hports

/-! ### Every step -/

/-- `TAKE AN INTERRUPT` as a series of accesses. -/
theorem takeInterrupt_runs (k : Interrupt) (s : State) :
    Runs true (fun t => t.source = s.source) s (andThen (takeInterrupt k s) .next) := by
  have e : andThen (takeInterrupt k s) .next = andThen (push16 (s.maskFor k) s.pc) fun s1 =>
      andThen (interruptTarget s1 k) fun r => .next { r.2 with pc := r.1 } := by
    rw [takeInterrupt]
    cases push16 (s.maskFor k) s.pc with
    | error f => rfl
    | ok s1 =>
      simp only [andThen_ok]
      cases interruptTarget s1 k <;> rfl
  rw [e]
  refine .registers (u := s.maskFor k) ⟨s.maskFor_mem k, s.maskFor_memdevs k, s.maskFor_iodevs k⟩
    (.push16 (k := fun s1 => andThen (interruptTarget s1 k) fun r => .next { r.2 with pc := r.1 }) fun _ _ => ?_)
  cases k with
  | nmi | mode1 => exact .done ⟨rfl, rfl, rfl⟩ rfl
  | mode2 low => exact .readWord fun _ _ => .done ⟨rfl, rfl, rfl⟩ rfl

/-- Fetching is a series of reads. -/
theorem fetchFrom_keeps {R : State → Prop} (hR : ∀ {s t a v}, readByte s a = .ok (v, t) → R s → R t) {fuel : Nat}
    {seen : List Byte} {a : Word} {s t : State} {i : Instr} (h : fetchFrom fuel seen a s = .ok (i, t)) (hs : R s) : R t := by
  induction fuel generalizing seen a s with
  | zero => cases h
  | succ fuel ih =>
    simp only [fetchFrom] at h
    cases hr : readByte s a with
    | error f => rw [hr] at h; cases h
    | ok r =>
      simp only [hr] at h
      have hr' := hR hr hs
      cases hd : decode (seen ++ [r.1]) with
      | ok j rest => rw [hd] at h; cases h; exact hr'
      | invalid bs => rw [hd] at h; cases h
      | incomplete => rw [hd] at h; exact ih h hr'

/-- A mode-0 payload answers a next state only if it is one instruction, which is executed. -/
theorem executeSupplied_next {s t : State} {payload : List Byte} (h : executeSupplied s payload = .next t) :
    ∃ i, decode payload = .ok i [] ∧ exec i { s with source := .supplied } = .next t := by
  unfold executeSupplied at h
  split at h
  next i hi => exact ⟨i, hi, h⟩
  all_goals cases h

/-- A step answers a next state by an interrupt's entry, or by fetching and executing an instruction. -/
theorem step_next {s t : State} (h : step s = .next t) :
    s.halted = false ∧ ((∃ j q, enter s.tickAll j q = .next t) ∨
      ∃ i u, fetch s.tickAll = .ok (i, u) ∧ exec i u = .next t) := by
  unfold step stepOnce afterTick fetchExecute at h
  split at h
  · cases h
  · next hh =>
    refine ⟨by simpa using hh, ?_⟩
    split at h
    next j q _ => exact .inl ⟨j, q, h⟩
    next =>
      obtain ⟨⟨i, u⟩, hf, hx⟩ := andThen_next h
      exact .inr ⟨i, u, hf, hx⟩

theorem KeptByAccesses.weaken {R : State → Prop} (hR : KeptByAccesses true R) (ports : Bool) : KeptByAccesses ports R :=
  ⟨hR.registers, hR.read, hR.write, fun _ => hR.portRead rfl, fun _ => hR.portWrite rfl⟩

theorem exec_source {i : Instr} {s t : State} (h : exec i s = .next t) : t.source = .memory :=
  congrArg Control.source (keeps_of_exec h)

/-- What every access, tick and acknowledgement keeps, every step keeps; and the next instruction comes from memory. -/
theorem step_keeps {R : State → Prop} (hR : KeptByAccesses true R) (htick : ∀ {s}, R s → R s.tickAll)
    (hack : ∀ {s} j, R s → R (s.ackDev j)) {s t : State} (h : step s = .next t) (hs : R s) :
    R t ∧ (s.source = .memory → t.source = .memory) := by
  have exec_keeps : ∀ {i u}, exec i u = .next t → R u → R t ∧ (s.source = .memory → t.source = .memory) :=
    fun hx hu => ⟨(exec_next_keeps (hR.weaken _) hx hu).1, fun _ => exec_source hx⟩
  have entry_keeps : ∀ {k j}, andThen (takeInterrupt k (s.tickAll.ackDev j)) .next = .next t →
      R t ∧ (s.source = .memory → t.source = .memory) := fun {k j} hk => by
    obtain ⟨ht, hsrc⟩ := (takeInterrupt_runs k _).next_keeps hR hk (hack j (htick hs))
    exact ⟨ht, fun h => hsrc.trans h⟩
  obtain ⟨-, ⟨j, q, he⟩ | ⟨i, u, hf, hx⟩⟩ := step_next h
  · cases q with
    | nmi => exact entry_keeps he
    | int first rest =>
      simp only [enter, enterMaskable] at he
      split at he
      · obtain ⟨i, -, hx⟩ := executeSupplied_next he
        exact exec_keeps hx (hR.registers (s := s.tickAll.ackDev j) ⟨rfl, rfl, rfl⟩ (hack j (htick hs)))
      · exact entry_keeps he
      · exact entry_keeps he
  · exact exec_keeps hx (fetchFrom_keeps hR.read hf (htick hs))

/-- A step is refused on a halted machine, and there alone. -/
theorem step_refused_iff (s : State) (r : Refusal) : step s = .refused r ↔ s.halted = true ∧ r = .halted := by
  unfold step stepOnce
  split
  next hh => simp [hh, eq_comm]
  next hh =>
    refine ⟨fun h => absurd h ?_, fun h => absurd h.1 hh⟩
    unfold afterTick
    split
    next j q _ =>
      cases q with
      | nmi => exact (takeInterrupt_runs _ _).ne_refused r
      | int first rest =>
        simp only [enter, enterMaskable]
        split
        · unfold executeSupplied
          split
          · exact exec_ne_refused _ _ r
          all_goals simp
        · exact (takeInterrupt_runs _ _).ne_refused r
        · exact (takeInterrupt_runs _ _).ne_refused r
    next => exact andThen_ne_refused fun _ _ => exec_ne_refused _ _ r

/-- Settles O14: an instruction and an entry are series of accesses, which are never refused. -/
theorem onlyHaltedIsRefused : Obligations.OnlyHaltedIsRefused := ⟨step_refused_iff, exec_ne_refused⟩

/-! ### The invariant -/

/-- Whether a registry is well formed is a matter of its ports. -/
theorem iodevsWellFormed_congr {ds es : List IODev} (h : ds.map IODev.ports = es.map IODev.ports) :
    iodevsWellFormed ds = iodevsWellFormed es := by
  induction ds generalizing es with
  | nil => rw [List.map_eq_nil_iff.mp h.symm]
  | cons d ds ih =>
    cases es with
    | nil => cases h
    | cons e es =>
      obtain ⟨hd, hds⟩ := List.cons.inj h
      have hall : ds.all (fun c => portsApart e.ports c.ports) = es.all fun c => portsApart e.ports c.ports := by
        have := congrArg (List.all · (portsApart e.ports)) hds
        simpa [List.all_map, Function.comp_def] using this
      rw [iodevsWellFormed, iodevsWellFormed, hd, ih hds, hall]

theorem portShape_tickAll (s : State) : portShape s.tickAll = portShape s := by
  simp [portShape, State.tickAll, Function.comp_def]

theorem portShape_ackDev (s : State) (j : Nat) : portShape (s.ackDev j) = portShape s := by
  refine List.ext_getElem? fun k => ?_
  simp only [portShape, State.ackDev, List.getElem?_map, List.getElem?_modify]
  cases s.iodevs[k]? with
  | none => simp
  | some d => by_cases hjk : j = k <;> simp [hjk]

theorem inv_of_portShape {s t : State} (ht : t = { s with iodevs := t.iodevs }) (hp : portShape t = portShape s)
    (h : Inv { s with source := .memory }) : Inv { t with source := .memory } := by
  rw [ht]
  exact ⟨h.memory, h.backed, (iodevsWellFormed_congr hp).trans h.ports, rfl⟩

/-- Every access keeps the invariant, whatever the source of the next instruction. -/
theorem inv_keptByAccesses : KeptByAccesses true fun u => Inv { u with source := .memory } where
  registers := fun ⟨hm, hd, hi⟩ h =>
    ⟨(congrArg Memory.wf hm).trans h.memory, by simpa only [hm, hd] using h.backed, by simpa only [hi] using h.ports, rfl⟩
  read hr h := by
    rcases readAt_cases hr with ⟨_, _, _, _, rfl⟩ | ⟨_, _, k, n, _, rfl⟩
    · exact h
    · exact inv_setMemInternal h k n
  write hw h := by
    rcases writeAt_cases hw with ⟨hk, rfl⟩ | ⟨_, k, n, _, rfl⟩
    · exact inv_write h _ hk rfl
    · exact inv_setMemInternal h k n
  portRead _ _ _ _ _ hp h := inv_of_portShape (portRead_frame hp).1 (portRead_frame hp).2 h
  portWrite _ _ _ _ _ hp h := inv_of_portShape (portWrite_frame hp).1 (portWrite_frame hp).2 h

/-- Settles O19: every access, tick and acknowledgement keeps the invariant, so every step does (`step_keeps`). -/
theorem invariantKeptByStep : Obligations.InvariantKeptByStep := by
  intro s t hs h
  have hs' : Inv { s with source := .memory } := ⟨hs.memory, hs.backed, hs.ports, rfl⟩
  obtain ⟨ht, hsrc⟩ := step_keeps inv_keptByAccesses (fun {s} h => inv_of_portShape rfl (portShape_tickAll s) h)
    (fun {s} j h => inv_of_portShape rfl (portShape_ackDev s j) h) h hs'
  exact ⟨ht.memory, ht.backed, ht.ports, hsrc hs.source⟩

/-- Settles O20, by evaluation of the default configuration. -/
theorem invariantAtReset : Obligations.InvariantAtReset := ⟨rfl, rfl, rfl, rfl⟩

/-! ### ROM -/

/-- `u` has the devices of `s` in shape, and the bytes of its ROM. -/
def SameRom (s u : State) : Prop :=
  memShape u = memShape s ∧ portShape u = portShape s ∧ (∀ a, kindAt u.memdevs a = kindAt s.memdevs a)
    ∧ ∀ a, kindAt s.memdevs a = some .rom → u.mem.read a = s.mem.read a

theorem SameRom.of_portShape {s u v : State} (h : SameRom s u) (hv : v = { u with iodevs := v.iodevs })
    (hp : portShape v = portShape u) : SameRom s v := by
  obtain ⟨hmem, hport, hkind, hrom⟩ := h
  rw [hv] at hp ⊢
  exact ⟨hmem, hp.trans hport, hkind, hrom⟩

theorem SameRom.setMemInternal {s u : State} (h : SameRom s u) (k n : Nat) : SameRom s (u.setMemInternal k n) := by
  obtain ⟨hmem, hport, hkind, hrom⟩ := h
  exact ⟨(memShape_setMemInternal u k n).trans hmem, hport, fun a => (kindAt_modify _ k n a).trans (hkind a), hrom⟩

/-- A byte written where the device is no ROM. -/
theorem SameRom.write {s u : State} (h : SameRom s u) {a : Nat} (ha : kindAt u.memdevs a ≠ some .rom) (v : Byte) :
    SameRom s { u with mem := u.mem.write a v } := by
  obtain ⟨hmem, hport, hkind, hrom⟩ := h
  refine ⟨hmem, hport, hkind, fun b hb => ?_⟩
  have hne : b ≠ a := by
    rintro rfl
    exact ha ((hkind b).trans hb)
  exact (Memory.read_write_other _ v hne).trans (hrom b hb)

theorem SameRom.readAt {s u t : State} {a : Nat} {v : Byte} (h : SameRom s u) (hr : readAt u a = .ok (v, t)) : SameRom s t := by
  rcases readAt_cases hr with ⟨_, _, _, _, rfl⟩ | ⟨_, _, k, n, _, rfl⟩
  · exact h
  · exact h.setMemInternal k n

theorem SameRom.writeAt {s u t : State} {a : Nat} {v : Byte} (h : SameRom s u) (hw : writeAt u a v = .ok t) : SameRom s t := by
  rcases writeAt_cases hw with ⟨hk, rfl⟩ | ⟨_, k, n, _, rfl⟩
  · exact h.write (by simp [hk]) v
  · exact h.setMemInternal k n

theorem SameRom.of_sameStore {s u v : State} (h : SameRom s u) (huv : SameStore u v) : SameRom s v := by
  obtain ⟨hm, hd, hi⟩ := huv
  obtain ⟨hmem, hport, hkind, hrom⟩ := h
  refine ⟨?_, ?_, ?_, ?_⟩
  · rwa [memShape, hd]
  · rwa [portShape, hi]
  · rwa [hd]
  · rwa [hm]

theorem sameRom_keptByAccesses (s : State) : KeptByAccesses true (SameRom s) where
  registers hst h := h.of_sameStore hst
  read hr h := h.readAt hr
  write hw h := h.writeAt hw
  portRead _ _ _ _ _ hp h := h.of_portShape (portRead_frame hp).1 (portRead_frame hp).2
  portWrite _ _ _ _ _ hp h := h.of_portShape (portWrite_frame hp).1 (portWrite_frame hp).2

/-- What every step keeps, every run keeps. -/
theorem Reaches.keeps {R : State → Prop} (hstep : ∀ {t u}, step t = .next u → R t → R u) {s t : State} (h : Reaches s t)
    (hs : R s) : R t := by
  induction h with
  | here => exact hs
  | next _ hu ih => exact hstep hu ih

/-- Settles O21: `SameRom` is kept by every access, tick and acknowledgement, so by every step and every run. -/
theorem romNeverChanges : Obligations.RomNeverChanges := by
  intro s t h
  have hrun : SameRom s t := h.keeps (fun hu ht => (step_keeps (sameRom_keptByAccesses s)
      (fun {u} h => h.of_portShape rfl (portShape_tickAll u)) (fun {u} j h => h.of_portShape rfl (portShape_ackDev u j))
      hu ht).1) ⟨rfl, rfl, fun _ => rfl, fun _ _ => rfl⟩
  obtain ⟨hmem, hport, -, hrom⟩ := hrun
  exact ⟨hmem, hport, fun a l hl hk => hrom a (by simp [kindAt, hl, hk])⟩

end Sys2Proof.Machine

/-! Fetching as reads in order, and the step it is part of; then the entries of an accepted interrupt. -/

namespace Sys2Proof

/-- Every beginning of a list that more bytes are wanted for is such a list. -/
theorem incomplete_of_append {bs more : List Byte} (h : decode (bs ++ more) = .incomplete) : decode bs = .incomplete := by
  by_contra hne
  rw [decode_append more hne] at h
  cases hd : decode bs with
  | ok | invalid => rw [hd] at h; cases h
  | incomplete => exact hne hd

/-- The byte that completes an instruction is its last. -/
theorem rest_eq_nil_of_incomplete {seen rest : List Byte} {v : Byte} {i : Instr} (hseen : decode seen = .incomplete)
    (h : decode (seen ++ [v]) = .ok i rest) : rest = [] := by
  rcases rest.eq_nil_or_concat with rfl | ⟨rest', w, rfl⟩
  · rfl
  · have henc := encode_append_of_decode h
    rw [List.concat_eq_append, ← List.append_assoc] at henc
    rw [← (List.append_inj' henc rfl).1, decode_encode_append] at hseen
    cases hseen

namespace Machine

/-! ### Reads look at the memory and its devices alone -/

theorem readByte_local {s t : State} (hm : t.mem = s.mem) (hd : t.memdevs = s.memdevs) (a : Word) :
    readByte t a = (readByte s a).map fun r => (r.1, { t with memdevs := r.2.memdevs }) := by
  simp only [readByte, readAt, hm, hd]
  cases resolve s.memdevs a.toNat with
  | none => rfl
  | some l =>
    simp only
    split
    · simp [Except.map, ← hm, ← hd]
    · simp [Except.map, ← hm, ← hd]
    · split
      · simp [Except.map, State.setMemInternal, hm, hd]
      · rfl

theorem readWord_local {s t : State} (hm : t.mem = s.mem) (hd : t.memdevs = s.memdevs) (a : Word) :
    readWord t a = (readWord s a).map fun r => (r.1, { t with memdevs := r.2.memdevs }) := by
  simp only [readWord]
  rw [readByte_local hm hd]
  cases hr : readByte s a with
  | error f => rfl
  | ok r =>
    have hmem : r.2.mem = s.mem := by rw [(readByte_frame hr).1]
    simp only [Except.map]
    rw [readByte_local (s := r.2) (t := { t with memdevs := r.2.memdevs }) (hm.trans hmem.symm) rfl]
    cases readByte r.2 (a + 1#16) <;> rfl

theorem ReadsInOrder.local {s t u : State} {a : Word} {vs : List Byte} (h : ReadsInOrder s a vs u) (hm : t.mem = s.mem)
    (hd : t.memdevs = s.memdevs) : ReadsInOrder t a vs { t with memdevs := u.memdevs } := by
  induction vs generalizing s t a with
  | nil =>
    cases h
    simp [ReadsInOrder, ← hd]
  | cons v vs ih =>
    obtain ⟨s1, hr, hrest⟩ := h
    have hmem : s1.mem = s.mem := by rw [(readByte_frame hr).1]
    refine ⟨{ t with memdevs := s1.memdevs }, ?_, ih hrest (hm.trans hmem.symm) rfl⟩
    rw [readByte_local hm hd, hr]
    rfl

theorem ReadsInOrder.mem_eq {s t : State} {a : Word} {vs : List Byte} (h : ReadsInOrder s a vs t) : t.mem = s.mem := by
  induction vs generalizing s a with
  | nil => rw [h]
  | cons v vs ih =>
    obtain ⟨s1, hr, hrest⟩ := h
    rw [ih hrest, (readByte_frame hr).1]

/-- The address `k + 1` bytes on is `k` bytes on from the next one. -/
theorem add_ofNat_succ (a : Word) (k : Nat) : a + BitVec.ofNat 16 (k + 1) = a + 1#16 + BitVec.ofNat 16 k := by
  apply BitVec.eq_of_toNat_eq
  simp
  omega

/-- RAM and ROM bytes are read in order, and reading them changes nothing. -/
theorem readsInOrder_plain {s : State} {a : Word} {vs : List Byte} (h : ∀ k v, vs[k]? = some v →
    PlainAt s (a + BitVec.ofNat 16 k) ∧ s.mem.read (a + BitVec.ofNat 16 k).toNat = v) : ReadsInOrder s a vs s := by
  induction vs generalizing a with
  | nil => rfl
  | cons v vs ih =>
    obtain ⟨hplain, hread⟩ := h 0 v rfl
    simp only [BitVec.add_zero] at hplain hread
    refine ⟨s, by rw [readByte_plain hplain, hread], ih fun k w hk => ?_⟩
    rw [← add_ofNat_succ]
    exact h (k + 1) w hk

/-- The last of some bytes read in order is read after the others. -/
theorem ReadsInOrder.append_singleton {s t : State} {a : Word} {vs : List Byte} {v : Byte} (h : ReadsInOrder s a (vs ++ [v]) t) :
    ∃ u, ReadsInOrder s a vs u ∧ readByte u (a + BitVec.ofNat 16 vs.length) = .ok (v, t) := by
  induction vs generalizing s a with
  | nil =>
    obtain ⟨s1, hr, rfl⟩ := h
    exact ⟨s, rfl, by simpa using hr⟩
  | cons w vs ih =>
    obtain ⟨s1, hr, hrest⟩ := h
    obtain ⟨u, hu, hlast⟩ := ih hrest
    exact ⟨u, ⟨s1, hr, hu⟩, by rwa [List.length_cons, add_ofNat_succ]⟩

/-! ### Fetching -/

/-- While more bytes are wanted the fetch goes on. -/
theorem fetchFrom_of_reads {fuel : Nat} {seen vs : List Byte} {a : Word} {s t : State} (h : ReadsInOrder s a vs t)
    (hd : decode (seen ++ vs) = .incomplete) :
    fetchFrom (vs.length + fuel) seen a s = fetchFrom fuel (seen ++ vs) (a + BitVec.ofNat 16 vs.length) t := by
  induction vs generalizing seen a s with
  | nil =>
    cases h
    simp
  | cons v vs ih =>
    obtain ⟨s1, hr, hrest⟩ := h
    have happ : seen ++ v :: vs = seen ++ [v] ++ vs := by simp
    rw [happ] at hd ⊢
    rw [List.length_cons, Nat.add_right_comm, fetchFrom, hr]
    simp only [incomplete_of_append hd]
    rw [ih hrest hd, ← add_ofNat_succ]

/-- Once bytes are read that more are wanted for, there is one more read, at least, to do. -/
theorem fetch_of_reads {s t : State} {vs : List Byte} (h : ReadsInOrder s s.pc vs t) (hd : decode vs = .incomplete) :
    ∃ fuel, fetch s = fetchFrom (fuel + 1) vs (s.pc + BitVec.ofNat 16 vs.length) t := by
  have hlen : vs.length < 4 := length_lt_of_incomplete hd
  have hfuel : 4 = vs.length + (3 - vs.length + 1) := by omega
  refine ⟨3 - vs.length, ?_⟩
  rw [fetch, hfuel]
  exact fetchFrom_of_reads (seen := []) h hd

/-- A fetch that answers has read the bytes of its instruction, and no more. -/
theorem reads_of_fetchFrom {fuel : Nat} {seen : List Byte} {a : Word} {s t : State} {i : Instr}
    (h : fetchFrom fuel seen a s = .ok (i, t)) (hseen : decode seen = .incomplete) :
    ∃ vs, ReadsInOrder s a vs t ∧ encode i = seen ++ vs := by
  induction fuel generalizing seen a s with
  | zero => cases h
  | succ fuel ih =>
    rw [fetchFrom] at h
    cases hr : readByte s a with
    | error f => rw [hr] at h; cases h
    | ok r =>
      obtain ⟨v, s1⟩ := r
      simp only [hr] at h
      cases hd : decode (seen ++ [v]) with
      | ok j rest =>
        rw [hd] at h
        cases h
        have henc := encode_append_of_decode hd
        rw [rest_eq_nil_of_incomplete hseen hd, List.append_nil] at henc
        exact ⟨[v], ⟨t, hr, rfl⟩, henc⟩
      | invalid bs => rw [hd] at h; cases h
      | incomplete =>
        rw [hd] at h
        obtain ⟨vs, hvs, henc⟩ := ih h hd
        exact ⟨v :: vs, ⟨s1, hr, hvs⟩, by rw [henc, List.append_assoc]; rfl⟩

theorem decode_encode (i : Instr) : decode (encode i) = .ok i [] := by
  have h := decode_encode_append i []
  rwa [List.append_nil] at h

/-- The bytes of an instruction, read in order, are fetched as it. -/
theorem fetch_of_encode {s t : State} {i : Instr} (h : ReadsInOrder s s.pc (encode i) t) : fetch s = .ok (i, t) := by
  have hdec := decode_encode i
  rcases (encode i).eq_nil_or_concat with henc | ⟨vs, v, henc⟩
  · rw [henc] at hdec
    cases hdec
  · rw [List.concat_eq_append] at henc
    have hvs := decode_take_incomplete_of_ok hdec (k := vs.length) (by simp [henc])
    rw [henc] at h hdec
    rw [henc, List.take_left] at hvs
    obtain ⟨u, hu, hlast⟩ := h.append_singleton
    obtain ⟨fuel, hfetch⟩ := fetch_of_reads hu hvs
    rw [hfetch, fetchFrom, hlast]
    simp only [hdec]

/-- Settles O12: `fetch_of_encode` one way, `reads_of_fetchFrom` the other. -/
theorem fetchReadsEachByteOnce : Obligations.FetchReadsEachByteOnce := by
  refine fun s t i => ⟨fun h => ?_, fetch_of_encode⟩
  obtain ⟨vs, hvs, henc⟩ := reads_of_fetchFrom h rfl
  rw [henc]
  exact hvs

/-- Bytes read in order that the decoder refuses are the fault of the fetch. -/
theorem fetch_of_invalid {s t : State} {seen : List Byte} (h : ReadsInOrder s s.pc seen t) (hd : decode seen = .invalid seen) :
    fetch s = .error (.invalidInstruction seen) := by
  rcases seen.eq_nil_or_concat with rfl | ⟨vs, v, rfl⟩
  · cases hd
  · rw [List.concat_eq_append] at h hd ⊢
    have hvs := decode_take_incomplete_of_invalid hd (k := vs.length) (by simp)
    rw [List.take_left] at hvs
    obtain ⟨u, hu, hlast⟩ := h.append_singleton
    obtain ⟨fuel, hfetch⟩ := fetch_of_reads hu hvs
    rw [hfetch, fetchFrom, hlast]
    simp only [hd]

/-- A read that fails while more bytes are wanted is the fault of the fetch. -/
theorem fetch_of_error {s t : State} {seen : List Byte} {f : Fault} (h : ReadsInOrder s s.pc seen t)
    (hd : decode seen = .incomplete) (hr : readByte t (s.pc + BitVec.ofNat 16 seen.length) = .error f) : fetch s = .error f := by
  obtain ⟨fuel, hfetch⟩ := fetch_of_reads h hd
  rw [hfetch, fetchFrom, hr]

/-! ### The step -/

/-- With no request accepted, the step fetches and executes. -/
theorem step_of_no_request {s : State} (hh : s.halted = false) (ha : arbitrate (s.iodevs.map IODev.tick) s.iff1 = none) :
    step s = fetchExecute s.tickAll := by
  simp only [step, stepOnce, hh, afterTick, Bool.false_eq_true, if_false]
  rw [show arbitrate s.tickAll.iodevs s.tickAll.iff1 = none from ha]

/-- With a request accepted, the step is its entry. -/
theorem step_of_request {s : State} {j : Nat} {q : Request} (hh : s.halted = false)
    (ha : arbitrate (s.iodevs.map IODev.tick) s.iff1 = some (j, q)) : step s = enter s.tickAll j q := by
  simp only [step, stepOnce, hh, afterTick, Bool.false_eq_true, if_false]
  rw [show arbitrate s.tickAll.iodevs s.tickAll.iff1 = some (j, q) from ha]

/-- Settles O11: the bytes of RAM and ROM are read in order from the ticked state, which is the one executed on. -/
theorem stepRunsTheDecodedInstruction : Obligations.StepRunsTheDecodedInstruction := by
  intro s i hh ha hplain
  have hfetch : fetch s.tickAll = .ok (i, s.tickAll) := fetch_of_encode (readsInOrder_plain hplain)
  rw [step_of_no_request hh ha, fetchExecute, hfetch, andThen_ok]
  rfl

/-- Settles O13: the reads from the ticked state are those from the state before (`ReadsInOrder.local`). -/
theorem fetchFaults : Obligations.FetchFaults := by
  intro s hh ha
  have step_fault : ∀ {f}, fetch s.tickAll = .error f → step s = .fault f := fun {f} hf => by
    rw [step_of_no_request hh ha, fetchExecute, hf, andThen_error]
  refine ⟨fun seen t h hd => ⟨fetch_of_invalid h hd, step_fault ?_⟩,
    fun seen t f h hd hr => ⟨fetch_of_error h hd hr, step_fault ?_⟩⟩
  · exact fetch_of_invalid (h.local (t := s.tickAll) rfl rfl) hd
  · refine fetch_of_error (h.local (t := s.tickAll) rfl rfl) hd ?_
    rw [readByte_local (s := t) (t := { s.tickAll with memdevs := t.memdevs }) h.mem_eq.symm rfl]
    exact congrArg _ hr

/-! ### The entries of an accepted interrupt -/

/-- The state after the acknowledge, the masking and the push of an entry, `t` being the state the push leaves the memory of. -/
def State.pushedFor (s : State) (j : Nat) (k : Interrupt) (t : State) : State :=
  ({ (s.tickAll.ackDev j).maskFor k with sp := s.sp - 2#16 } : State).memOf t

/-- The push of an entry is the word write it makes on the state before the step. -/
theorem push16_entry (s : State) (j : Nat) (k : Interrupt) (v : Word) :
    push16 ((s.tickAll.ackDev j).maskFor k) v = (writeWord s (s.sp - 2#16) v).map (s.pushedFor j k) := by
  cases k <;> exact writeWord_local (s := s) (t := { (s.tickAll.ackDev j).maskFor _ with sp := s.sp - 2#16 }) rfl rfl _ _

theorem takeInterrupt_of_push {s t : State} {j : Nat} (k : Interrupt) (h : writeWord s (s.sp - 2#16) s.pc = .ok t) :
    andThen (takeInterrupt k (s.tickAll.ackDev j)) .next
      = andThen (interruptTarget (s.pushedFor j k t) k) fun r => .next { r.2 with pc := r.1 } := by
  rw [takeInterrupt, show (s.tickAll.ackDev j).pc = s.pc from rfl, push16_entry, h]
  simp only [Except.map]
  cases interruptTarget (s.pushedFor j k t) k <;> rfl

theorem takeInterrupt_of_push_error {s : State} {j : Nat} {f : Fault} (k : Interrupt)
    (h : writeWord s (s.sp - 2#16) s.pc = .error f) : andThen (takeInterrupt k (s.tickAll.ackDev j)) .next = .fault f := by
  rw [takeInterrupt, show (s.tickAll.ackDev j).pc = s.pc from rfl, push16_entry, h]
  rfl

/-- Settles O16, by the push of the entry (`takeInterrupt_of_push`). -/
theorem nmiEntry : Obligations.NmiEntry := by
  intro s j hh ha
  have hstep : step s = andThen (takeInterrupt .nmi (s.tickAll.ackDev j)) .next := step_of_request hh ha
  refine ⟨fun t ht => ⟨?_, storedWord_of_write (.refl s) ht⟩, fun f hf => ?_⟩
  · rw [hstep, takeInterrupt_of_push _ ht]
    rfl
  · rw [hstep, takeInterrupt_of_push_error _ hf]

/-- The table read of mode 2 looks at the memory the push left. -/
theorem readWord_pushedFor (s t : State) (j : Nat) (k : Interrupt) (a : Word) :
    readWord (s.pushedFor j k t) a = (readWord t a).map fun r => (r.1, { s.pushedFor j k t with memdevs := r.2.memdevs }) :=
  readWord_local (s := t) (t := s.pushedFor j k t) rfl rfl a

/-- Settles O17, by the push of the entry (`takeInterrupt_of_push`) and, in mode 2, the read of the table. -/
theorem vectoredEntry : Obligations.VectoredEntry := by
  intro s j first rest hh ha
  have hstep : step s = enterMaskable (s.tickAll.ackDev j) first rest := step_of_request hh ha
  have hstep1 : s.im = .im1 → step s = andThen (takeInterrupt .mode1 (s.tickAll.ackDev j)) .next := fun h1 => by
    rw [hstep, enterMaskable, show (s.tickAll.ackDev j).im = .im1 from h1]
  have hstep2 : s.im = .im2 → step s = andThen (takeInterrupt (.mode2 first) (s.tickAll.ackDev j)) .next := fun h2 => by
    rw [hstep, enterMaskable, show (s.tickAll.ackDev j).im = .im2 from h2]
  have htable : ∀ t, interruptTarget (s.pushedFor j (.mode2 first) t) (.mode2 first) = (readWord t (s.i ++ first)).map
      fun r => (r.1, { s.pushedFor j (.mode2 first) t with memdevs := r.2.memdevs }) := fun t => readWord_pushedFor s t j _ _
  refine ⟨fun h1 t ht => ⟨?_, storedWord_of_write (.refl s) ht⟩,
    fun h2 t v u ht hv => ⟨?_, storedWord_of_write (.refl s) ht⟩, fun h0 f hf => ?_, fun h2 t f ht hf => ?_⟩
  · rw [hstep1 h1, takeInterrupt_of_push _ ht]
    rfl
  · rw [hstep2 h2, takeInterrupt_of_push _ ht, htable, hv]
    rfl
  · cases hm : s.im with
    | im0 => exact absurd hm h0
    | im1 => rw [hstep1 hm, takeInterrupt_of_push_error _ hf]
    | im2 => rw [hstep2 hm, takeInterrupt_of_push_error _ hf]
  · rw [hstep2 h2, takeInterrupt_of_push _ ht, htable, hf]
    rfl

/-- Settles O18: the entry is `executeSupplied` of the payload, whose four outcomes are the four clauses. -/
theorem modeZeroEntry : Obligations.ModeZeroEntry := by
  intro s j first rest hh h0 ha
  have hstep : step s = executeSupplied { s.tickAll.ackDev j with iff1 := false, iff2 := false } (first :: rest) := by
    rw [step_of_request hh ha, enter, enterMaskable]
    split
    next => rfl
    next h1 => cases h0.symm.trans h1
    next h2 => cases h0.symm.trans h2
  rw [executeSupplied] at hstep
  refine ⟨fun i hi => ⟨_, rfl, ?_, fun len => ?_⟩, fun i b bs hi => ?_, fun hi => ?_, fun seen hi => ?_⟩
  · rw [hstep, hi]
    rfl
  · simp [nextPc]
  all_goals rw [hstep, hi]

end Machine

end Sys2Proof

/-! The flag and arithmetic functions in the statements' numbers (R30 to R43, and the flag clauses of single rules). -/

namespace Sys2Proof.Machine

/-! ### Parity, conditions, rotates -/

theorem parity_eq_evenOnes (v : Byte) : parity v = evenOnes v := by
  revert v
  decide

theorem cond_ofByte (f : Byte) (cc : Cond) : (Flags.ofByte f).cond cc = holds f cc := by
  cases cc <;> rfl

/-- The function of R40 that an operation of the statements stands for. -/
def ShiftOp.function (v : Byte) (cin : Bool) : ShiftOp → Byte × Bool
  | .rlc => Machine.rlc v
  | .rrc => Machine.rrc v
  | .rl => Machine.rl v cin
  | .rr => Machine.rr v cin
  | .sla => Machine.sla v
  | .sra => Machine.sra v
  | .srl => Machine.srl v

theorem ShiftOp.function_eq_result (op : ShiftOp) (v : Byte) (cin : Bool) : op.function v cin = op.result v cin := by
  revert cin v
  cases op <;> decide

/-- Settles O6: `parity_eq_evenOnes`, `cond_ofByte` and `ShiftOp.function_eq_result` are its three clauses. -/
theorem parityConditionsAndRotates : Obligations.ParityConditionsAndRotates := by
  refine ⟨parity_eq_evenOnes, cond_ofByte, fun v cin => ?_⟩
  have h := fun op : ShiftOp => op.function_eq_result v cin
  exact ⟨h .rlc, h .rrc, h .rl, h .rr, h .sla, h .sra, h .srl⟩

theorem toByte_shiftFlags (res : Byte × Bool) : (shiftFlags res).toByte = shiftedF res := by
  rw [toByte_eq_flagByte, shiftedF, ← parity_eq_evenOnes]
  rfl

theorem toByte_accRotFlags (f : Byte) (res : Byte × Bool) : (accRotFlags (Flags.ofByte f) res).toByte
    = flagByte (f.getLsbD 7) (f.getLsbD 6) (res.1.getLsbD 5) false (res.1.getLsbD 3) (f.getLsbD 2) false res.2 :=
  toByte_eq_flagByte _

/-! ### Sums and differences of bytes -/

theorem add8_fst (a v : Byte) (c : Bool) : (add8 a v c).1 = (sumF a v c).1 := rfl

theorem toByte_add8 (a v : Byte) (c : Bool) : (add8 a v c).2.toByte = (sumF a v c).2 := toByte_eq_flagByte _

/-- A difference computed exactly is the one computed from a value that does not go below 0. -/
theorem ofInt_difference8 (a v : Byte) (c : Bool) :
    BitVec.ofInt 8 ((a.toNat : Int) - v.toNat - c.toNat) = BitVec.ofNat 8 (a.toNat + 512 - v.toNat - c.toNat) := by
  have hc := c.toNat_le
  apply BitVec.eq_of_toNat_eq
  simp only [BitVec.toNat_ofInt, BitVec.toNat_ofNat]
  omega

/-- A difference is below 0 where a borrow is needed. -/
theorem decide_difference_neg (a v : Nat) (c : Bool) : decide ((a : Int) - v - c.toNat < 0) = decide (a < v + c.toNat) := by
  rw [decide_eq_decide]
  omega

theorem sub8_fst (a v : Byte) (c : Bool) : (sub8 a v c).1 = (differenceF a v c).1 := ofInt_difference8 a v c

theorem toByte_sub8 (a v : Byte) (c : Bool) : (sub8 a v c).2.toByte = (differenceF a v c).2 := by
  rw [toByte_eq_flagByte]
  simp only [sub8, differenceF, ofInt_difference8, decide_difference_neg]
  rfl

theorem sub8_fst_eq_sub (a v : Byte) : (sub8 a v false).1 = a - v := by
  rw [sub8_fst]
  apply BitVec.eq_of_toNat_eq
  simp only [differenceF, BitVec.toNat_ofNat, BitVec.toNat_sub, Bool.toNat_false]
  omega

theorem toByte_logicFlags (h : Bool) (r : Byte) : (logicFlags h r).toByte = parityF r h false := by
  rw [toByte_eq_flagByte, parityF, ← parity_eq_evenOnes]
  rfl

/-! ### One up and one down -/

theorem mod_two_eq_getLsbD (g : Byte) : g.toNat % 2 = (g.getLsbD 0).toNat := by
  revert g
  decide

theorem keepC_flagByte (s z y h x pv n c : Bool) (g : Byte) :
    keepC (flagByte s z y h x pv n c) g = flagByte s z y h x pv n (g.getLsbD 0) := by
  rw [keepC, mod_two_eq_getLsbD]
  generalize g.getLsbD 0 = d
  revert s z y h x pv n c d
  decide

theorem inc8_fst (f : Flags) (v : Byte) : (inc8 f v).1 = v + 1#8 := by
  apply BitVec.eq_of_toNat_eq
  simp [inc8, add8]

theorem toByte_inc8 (f v : Byte) : (inc8 (Flags.ofByte f) v).2.toByte = keepC (sumF v 1#8 false).2 f := by
  rw [sumF, keepC_flagByte, toByte_eq_flagByte]
  rfl

theorem dec8_fst (f : Flags) (v : Byte) : (dec8 f v).1 = v - 1#8 := sub8_fst_eq_sub v 1

theorem toByte_dec8 (f v : Byte) : (dec8 (Flags.ofByte f) v).2.toByte = keepC (differenceF v 1#8 false).2 f := by
  rw [← toByte_sub8, toByte_eq_flagByte, toByte_eq_flagByte, keepC_flagByte]
  rfl

/-! ### Words -/

theorem add16_fst (f : Byte) (a b : Word) : (add16 (Flags.ofByte f) a b).1 = (addWordF f a b).1 := rfl

theorem toByte_add16 (f : Byte) (a b : Word) : (add16 (Flags.ofByte f) a b).2.toByte = (addWordF f a b).2 :=
  toByte_eq_flagByte _

theorem adc16_fst (a b : Word) (c : Bool) : (adc16 a b c).1 = (adcWordF a b c).1 := rfl

theorem toByte_adc16 (a b : Word) (c : Bool) : (adc16 a b c).2.toByte = (adcWordF a b c).2 := toByte_eq_flagByte _

theorem ofInt_difference16 (a b : Word) (c : Bool) :
    BitVec.ofInt 16 ((a.toNat : Int) - b.toNat - c.toNat) = BitVec.ofNat 16 (a.toNat + 131072 - b.toNat - c.toNat) := by
  have hc := c.toNat_le
  apply BitVec.eq_of_toNat_eq
  simp only [BitVec.toNat_ofInt, BitVec.toNat_ofNat]
  omega

theorem sbc16_fst (a b : Word) (c : Bool) : (sbc16 a b c).1 = (sbcWordF a b c).1 := ofInt_difference16 a b c

theorem toByte_sbc16 (a b : Word) (c : Bool) : (sbc16 a b c).2.toByte = (sbcWordF a b c).2 := by
  rw [toByte_eq_flagByte]
  simp only [sbc16, sbcWordF, ofInt_difference16, decide_difference_neg]
  rfl

theorem add_one_eq_ofNat (w : Word) : w + 1#16 = BitVec.ofNat 16 (w.toNat + 1) := by
  apply BitVec.eq_of_toNat_eq
  simp

theorem sub_one_eq_ofNat (w : Word) : w - 1#16 = BitVec.ofNat 16 (w.toNat + 65535) := by
  apply BitVec.eq_of_toNat_eq
  simp
  omega

theorem add_ffff_eq_sub_one (w : Word) : w + 0xFFFF#16 = w - 1#16 := by
  apply BitVec.eq_of_toNat_eq
  simp
  omega

/-! ### Decimal adjust -/

/-- The correction of R43, from whether either digit needs one. -/
def daaCorrection (low high : Bool) : Nat := if high then (if low then 6 else 0) + 0x60 else if low then 6 else 0

theorem ofNat_daaCorrection (low high : Bool) :
    ((if low then 0x06 else 0 : Byte) ||| if high then 0x60 else 0) = BitVec.ofNat 8 (daaCorrection low high) := by
  revert low high
  decide

theorem daaCorrection_le (low high : Bool) : daaCorrection low high ≤ 256 := by
  revert low high
  decide

theorem daa_fst (f a : Byte) : (daa (Flags.ofByte f) a).1 = (adjusted f a).1 := by
  obtain ⟨c, hc⟩ : ∃ c, c = daaCorrection (f.getLsbD 4 || decide (a.toNat % 16 > 9))
      (f.getLsbD 0 || decide (a.toNat > 0x99)) := ⟨_, rfl⟩
  have hle : c ≤ 256 := hc ▸ daaCorrection_le _ _
  have hmodel : (daa (Flags.ofByte f) a).1 = if f.getLsbD 1 then a - BitVec.ofNat 8 c else a + BitVec.ofNat 8 c := by
    rw [hc, ← ofNat_daaCorrection]
    rfl
  have hspec : (adjusted f a).1 = BitVec.ofNat 8 (if f.getLsbD 1 then a.toNat + 256 - c else a.toNat + c) := by
    simp only [hc, adjusted, daaCorrection, Bool.or_eq_true, decide_eq_true_eq, gt_iff_lt]
  rw [hmodel, hspec]
  apply BitVec.eq_of_toNat_eq
  split
  · simp only [BitVec.toNat_sub, BitVec.toNat_ofNat]
    omega
  · simp only [BitVec.toNat_add, BitVec.toNat_ofNat]
    omega

theorem toByte_daa (f a : Byte) : (daa (Flags.ofByte f) a).2.toByte = (adjusted f a).2 := by
  have hsnd : ∀ r, r = (adjusted f a).1 → (adjusted f a).2 = flagByte (r.getLsbD 7) (decide (r = 0#8)) (r.getLsbD 5)
      (a.getLsbD 4 != r.getLsbD 4) (r.getLsbD 3) (evenOnes r) (f.getLsbD 1) (f.getLsbD 0 || decide (0x99 < a.toNat)) := by
    rintro r rfl
    rfl
  have hxor : (a ^^^ (daa (Flags.ofByte f) a).1).getLsbD 4 = (a.getLsbD 4 != (daa (Flags.ofByte f) a).1.getLsbD 4) :=
    BitVec.getLsbD_xor
  rw [toByte_eq_flagByte, hsnd _ (daa_fst f a), ← parity_eq_evenOnes, ← hxor]
  rfl

/-! ### The flag clauses of single rules -/

theorem toByte_cplFlags (f a : Byte) : (cplFlags (Flags.ofByte f) a).toByte
    = flagByte (f.getLsbD 7) (f.getLsbD 6) (a.getLsbD 5) true (a.getLsbD 3) (f.getLsbD 2) true (f.getLsbD 0) :=
  toByte_eq_flagByte _

theorem toByte_ccfFlags (f a : Byte) : (ccfFlags (Flags.ofByte f) a).toByte
    = flagByte (f.getLsbD 7) (f.getLsbD 6) (a.getLsbD 5) (f.getLsbD 0) (a.getLsbD 3) (f.getLsbD 2) false (!f.getLsbD 0) :=
  toByte_eq_flagByte _

theorem toByte_scfFlags (f a : Byte) : (scfFlags (Flags.ofByte f) a).toByte
    = flagByte (f.getLsbD 7) (f.getLsbD 6) (a.getLsbD 5) false (a.getLsbD 3) (f.getLsbD 2) false true :=
  toByte_eq_flagByte _

theorem toByte_irFlags (f v : Byte) (iff2 : Bool) : (irFlags (Flags.ofByte f) v iff2).toByte
    = flagByte (v.getLsbD 7) (decide (v = 0#8)) (v.getLsbD 5) false (v.getLsbD 3) iff2 false (f.getLsbD 0) :=
  toByte_eq_flagByte _

theorem toByte_inFlags (f v : Byte) : (inFlags (Flags.ofByte f) v).toByte = parityF v false (f.getLsbD 0) := by
  rw [toByte_eq_flagByte, parityF, ← parity_eq_evenOnes]
  rfl

theorem toByte_bitFlags (f m : Byte) : (bitFlags (Flags.ofByte f) m).toByte = parityF m true (f.getLsbD 0) := by
  rw [toByte_eq_flagByte, parityF, ← parity_eq_evenOnes]
  rfl

theorem bne_zero_eq_decide {w : Nat} (v : BitVec w) : (v != 0#w) = decide (v ≠ 0#w) := by
  by_cases h : v = 0#w <;> simp [h]

theorem toByte_ldBlockFlags (f a t : Byte) (bc : Word) : (ldBlockFlags (Flags.ofByte f) a t bc).toByte
    = flagByte (f.getLsbD 7) (f.getLsbD 6) ((a + t).getLsbD 1) false ((a + t).getLsbD 3) (decide (bc ≠ 0#16)) false
      (f.getLsbD 0) := by
  rw [toByte_eq_flagByte, ← bne_zero_eq_decide]
  rfl

theorem sub_eq_zero_iff (a t : Byte) : a - t = 0#8 ↔ a = t := by
  constructor
  · intro h
    bv_omega
  · rintro rfl
    exact BitVec.sub_self a

theorem toByte_cpBlockFlags (f a t : Byte) (bc : Word) : (cpBlockFlags (Flags.ofByte f) a t bc).toByte
    = flagByte ((a - t).getLsbD 7) (decide (a = t)) ((a - t).getLsbD 5) (decide (a.toNat % 16 < t.toNat % 16))
      ((a - t).getLsbD 3) (decide (bc ≠ 0#16)) true (f.getLsbD 0) := by
  have hr : BitVec.ofInt 8 ((a.toNat : Int) - t.toNat - false.toNat) = a - t := sub8_fst_eq_sub a t
  have hz : (a - t == 0) = decide (a = t) := by
    rw [← decide_eq_decide.mpr (sub_eq_zero_iff a t)]
    rfl
  rw [toByte_eq_flagByte, ← bne_zero_eq_decide]
  simp only [cpBlockFlags, sub8, hr, hz, decide_difference_neg]
  rfl

theorem toByte_ioBlockFlags (f b : Byte) (h pv : Bool) : (ioBlockFlags (Flags.ofByte f) b h pv).toByte
    = flagByte (b.getLsbD 7) (decide (b = 0#8)) (b.getLsbD 5) h (b.getLsbD 3) pv true (f.getLsbD 0) :=
  toByte_eq_flagByte _

/-! ### Bits and digits -/

theorem bitMasked_eq (b : BitVec 3) (v : Byte) :
    bitMasked b v = if v.getLsbD b.toNat then BitVec.ofNat 8 (2 ^ b.toNat) else 0#8 := by
  revert v
  rcases bitVec3_cases b with rfl | rfl | rfl | rfl | rfl | rfl | rfl | rfl <;> decide

theorem getLsbD_bitMask (b : BitVec 3) {k : Nat} (hk : k < 8) : (bitMask b).getLsbD k = decide (k = b.toNat) := by
  simp only [bitMask, BitVec.getLsbD_shiftLeft, BitVec.getLsbD_one, hk]
  rw [Bool.eq_iff_iff]
  simp
  omega

theorem bitSet_eq {b : BitVec 3} {one : Byte → Byte}
    (h : ∀ v k, k < 8 → (one v).getLsbD k = (decide (k = b.toNat) || v.getLsbD k)) (v : Byte) : bitSet b v = one v := by
  apply BitVec.eq_of_getLsbD_eq
  intro k hk
  rw [h v k hk, bitSet, BitVec.getLsbD_or, getLsbD_bitMask b hk, Bool.or_comm]

theorem bitReset_eq {b : BitVec 3} {zero : Byte → Byte}
    (h : ∀ v k, k < 8 → (zero v).getLsbD k = (decide (k ≠ b.toNat) && v.getLsbD k)) (v : Byte) : bitReset b v = zero v := by
  apply BitVec.eq_of_getLsbD_eq
  intro k hk
  rw [h v k hk, bitReset, BitVec.getLsbD_and, BitVec.getLsbD_not, getLsbD_bitMask b hk, Bool.and_comm]
  simp [hk]

/-- Two digits put together by `|||` are the number they are the digits of. -/
theorem ofNat_or_digit {hi lo : Nat} (hlo : lo < 16) :
    BitVec.ofNat 8 (hi * 16) ||| BitVec.ofNat 8 lo = BitVec.ofNat 8 (hi * 16 + lo) := by
  have h := Nat.shiftLeft_add_eq_or_of_lt (i := 4) hlo hi
  rw [Nat.shiftLeft_eq] at h
  rw [← BitVec.ofNat_or, ← h]

theorem shiftLeft_digit (t : Byte) : t <<< 4 = BitVec.ofNat 8 (t.toNat % 16 * 16) := by
  revert t
  decide

theorem shiftRight_digit (t : Byte) : t >>> 4 = BitVec.ofNat 8 (t.toNat / 16) := by
  revert t
  decide

theorem low_digit (t : Byte) : t &&& 0x0F = BitVec.ofNat 8 (t.toNat % 16) := by
  revert t
  decide

theorem high_digit (t : Byte) : t &&& 0xF0 = BitVec.ofNat 8 (t.toNat / 16 * 16) := by
  revert t
  decide

end Sys2Proof.Machine

/-! Loads, exchanges, control, jumps, calls and returns: each meaning is one of the shapes of Laws/Shapes.lean. -/

namespace Sys2Proof.Machine

/-! ### Loads -/

/-- Settles O27: each meaning is a register update at the end of an instruction. -/
theorem registerLoads : Obligations.RegisterLoads := by
  refine fun s r q n dd nn => ⟨next_retire rfl rfl rfl, next_retire rfl rfl rfl, ?_, next_retire rfl rfl rfl,
    next_retire rfl rfl rfl, next_retire rfl rfl rfl, next_retire rfl rfl rfl, next_retire rfl rfl rfl⟩
  cases dd <;> exact next_retire rfl rfl rfl

/-- Settles O28, by the shape of a byte load. -/
theorem byteLoads : Obligations.ByteLoads := by
  refine fun s r d nn => ⟨?_, ?_, ?_, ?_, ?_, ?_⟩
  · exact takesByte_of_loadByte (k := fun v s1 => s1.setReg8 r v) rfl fun _ _ => rfl
  · exact takesByte_of_loadByte (k := fun v s1 => s1.setReg8 r v) rfl fun _ _ => rfl
  · exact takesByte_of_loadByte (k := fun v s1 => s1.setReg8 r v) rfl fun _ _ => rfl
  · exact takesByte_of_loadByte (k := fun v s1 => s1.setReg8 .a v) rfl fun _ _ => rfl
  · exact takesByte_of_loadByte (k := fun v s1 => s1.setReg8 .a v) rfl fun _ _ => rfl
  · exact takesByte_of_loadByte (k := fun v s1 => s1.setReg8 .a v) rfl fun _ _ => rfl

/-- Settles O29, by the shape of a byte store. -/
theorem byteStores : Obligations.ByteStores := fun _ _ _ _ _ =>
  ⟨storesByte_of_storeByte rfl, storesByte_of_storeByte rfl, storesByte_of_storeByte rfl, storesByte_of_storeByte rfl,
    storesByte_of_storeByte rfl, storesByte_of_storeByte rfl, storesByte_of_storeByte rfl, storesByte_of_storeByte rfl,
    storesByte_of_storeByte rfl⟩

/-- Settles O30; the flags of the first two are `toByte_irFlags`. -/
theorem interruptRegisterLoads : Obligations.InterruptRegisterLoads := by
  refine fun s => ⟨?_, ?_, next_retire rfl rfl rfl, next_retire rfl rfl rfl⟩
  · rw [← toByte_irFlags]
    exact next_retire rfl rfl rfl
  · rw [← toByte_irFlags]
    exact next_retire rfl rfl rfl

/-- Settles O31, by the shape of a word load. -/
theorem wordLoads : Obligations.WordLoads := by
  refine fun s dd nn => ⟨?_, ?_, ?_, ?_⟩
  · exact loadsWord_of_loadWord (k := fun v s1 => s1.setPair .hl v) rfl (fun _ _ => rfl) fun _ _ => ⟨rfl, rfl⟩
  · exact loadsWord_of_loadWord (k := fun v s1 => s1.setPair dd v) rfl (fun _ _ => rfl)
      fun _ _ => ⟨State.setPair_source .., State.setPair_pc ..⟩
  · exact loadsWord_of_loadWord (k := fun v s1 => s1.setIndex .ix v) rfl (fun _ _ => rfl) fun _ _ => ⟨rfl, rfl⟩
  · exact loadsWord_of_loadWord (k := fun v s1 => s1.setIndex .iy v) rfl (fun _ _ => rfl) fun _ _ => ⟨rfl, rfl⟩

/-- Settles O32, by the shape of a word store. -/
theorem wordStores : Obligations.WordStores := fun _ _ _ =>
  ⟨storesWord_of_storeWord rfl, storesWord_of_storeWord rfl, storesWord_of_storeWord rfl, storesWord_of_storeWord rfl⟩

/-- Settles O33, by the shape of a push. -/
theorem pushes : Obligations.Pushes := fun _ _ =>
  ⟨storesWord_of_pushWord rfl, storesWord_of_pushWord rfl, storesWord_of_pushWord rfl⟩

/-- Settles O34, by the shape of a pop. -/
theorem pops : Obligations.Pops := by
  refine fun s qq => ⟨?_, ?_, ?_⟩
  · exact loadsWord_of_popWord (k := fun v s1 => s1.setStackPair qq v) rfl (fun _ _ => rfl)
      fun _ _ => ⟨State.setStackPair_source .., State.setStackPair_pc ..⟩
  · exact loadsWord_of_popWord (k := fun v s1 => s1.setIndex .ix v) rfl (fun _ _ => rfl) fun _ _ => ⟨rfl, rfl⟩
  · exact loadsWord_of_popWord (k := fun v s1 => s1.setIndex .iy v) rfl (fun _ _ => rfl) fun _ _ => ⟨rfl, rfl⟩

/-! ### Exchanges -/

/-- `EX DE,HL` as an exchange of the halves. -/
theorem setDE_setHL_swap (g : Regs) : (g.setDE g.hl).setHL g.de = { g with d := g.h, e := g.l, h := g.d, l := g.e } := by
  simp [Regs.setDE, Regs.setHL, Regs.hl, Regs.de]

/-- Settles O35; for `EX DE,HL` by `setDE_setHL_swap`. -/
theorem registerExchanges : Obligations.RegisterExchanges := by
  refine fun s => ⟨?_, next_retire rfl rfl rfl, next_retire rfl rfl rfl⟩
  rw [← setDE_setHL_swap]
  exact next_retire rfl rfl rfl

/-- Settles O36, by the shape of an exchange with the top of the stack. -/
theorem stackTopExchanges : Obligations.StackTopExchanges := by
  refine fun s => ⟨?_, ?_, ?_⟩
  · exact exchangesTop_of_exchangeStackTop rfl fun _ _ => ⟨rfl, rfl⟩
  · exact exchangesTop_of_exchangeStackTop rfl fun _ _ => ⟨rfl, rfl⟩
  · exact exchangesTop_of_exchangeStackTop rfl fun _ _ => ⟨rfl, rfl⟩

/-! ### Control -/

/-- Settles O44: each meaning is its one update at the end of an instruction. -/
theorem cpuControl : Obligations.CpuControl := fun _ =>
  ⟨next_retire rfl rfl rfl, next_retire rfl rfl rfl, next_retire rfl rfl rfl, next_retire rfl rfl rfl, next_retire rfl rfl rfl,
    next_retire rfl rfl rfl, next_retire rfl rfl rfl⟩

/-- Settles O46; the numbers are `add_one_eq_ofNat` and `sub_one_eq_ofNat`. -/
theorem wordIncrements : Obligations.WordIncrements := by
  intro s ss
  simp only [← add_one_eq_ofNat, ← sub_one_eq_ofNat]
  exact ⟨next_retire rfl (s.setPair_source ..) (s.setPair_pc ..), next_retire rfl rfl rfl, next_retire rfl rfl rfl,
    next_retire rfl (s.setPair_source ..) (s.setPair_pc ..), next_retire rfl rfl rfl, next_retire rfl rfl rfl⟩

/-- Settles O26: a reset sets every field it names, and keeps memory and devices. -/
theorem resetValues : Obligations.ResetValues := ⟨fun s => ⟨s.free, rfl⟩, rfl, rfl⟩

/-! ### Jumps -/

/-- The end of an instruction that writes `pc`, in the statements' words. -/
theorem next_retireTo (s : State) {t u : Word} (h : t = u) : (Host.Outcome.next (s.retireTo t) : Res) = .next (s.endedAt u) := by
  rw [h, retireTo_eq_endedAt]

theorem cond_flags (s : State) (cc : Cond) : s.flags.cond cc = holds s.main.f cc := cond_ofByte _ cc

/-- Settles O53: each meaning writes `pc` alone. -/
theorem absoluteJumps : Obligations.AbsoluteJumps := by
  refine fun s cc nn => ⟨next_retireTo s rfl, next_retireTo s ?_, next_retireTo s rfl, next_retireTo s rfl,
    next_retireTo s rfl⟩
  rw [cond_flags, npc_eq_nextPc]

theorem branchTarget_eq_relative (s : State) (e : Byte) : s.branchTarget 2 e = relative s e := by
  rw [State.branchTarget, npc_eq_nextPc, add_sext16, relative]

theorem jrTarget_eq (s : State) (taken : Bool) (e : Byte) :
    s.jrTarget taken e = if taken then relative s e else nextPc s 2 := by
  rw [State.jrTarget, branchTarget_eq_relative, npc_eq_nextPc]

/-- Settles O54: `jrTarget_eq` says where each goes. -/
theorem relativeJumps : Obligations.RelativeJumps := by
  refine fun s e => ⟨next_retireTo s (branchTarget_eq_relative s e), next_retireTo s (jrTarget_eq s _ e), ?_,
    next_retireTo s (jrTarget_eq s _ e), ?_, ?_⟩
  · refine next_retireTo s ((jrTarget_eq s (!s.main.f.getLsbD 0) e).trans ?_)
    cases s.main.f.getLsbD 0 <;> rfl
  · refine next_retireTo s ((jrTarget_eq s (!s.main.f.getLsbD 6) e).trans ?_)
    cases s.main.f.getLsbD 6 <;> rfl
  · refine next_retireTo { s with main := { s.main with b := s.main.b - 1#8 } }
      ((jrTarget_eq s (s.main.b - 1#8 != 0#8) e).trans ?_)
    by_cases hb : s.main.b = 1#8
    · simp [hb]
    · have hne : s.main.b - 1#8 ≠ 0#8 := fun h => hb ((sub_eq_zero_iff _ _).mp h)
      simp [hb, hne]

/-! ### Calls and returns -/

/-- Settles O55, by the shape of a call. -/
theorem callsAndRestarts : Obligations.CallsAndRestarts := by
  refine fun s cc nn t => ⟨storesWord_of_callTo rfl, fun h => storesWord_of_callTo ?_, fun h => ?_, storesWord_of_callTo rfl⟩
  · exact if_pos ((cond_flags s cc).trans h)
  · refine Eq.trans (if_neg ?_) (next_retire (s := s) rfl rfl rfl)
    simp [cond_flags, h]

/-- Settles O56, by the shape of a return. -/
theorem returns : Obligations.Returns := by
  refine fun s cc => ⟨?_, fun h => ?_, fun h => ?_, ?_, ?_⟩
  · exact returnsTo_of_popPc (g := fun u => u) rfl fun _ _ => rfl
  · exact returnsTo_of_popPc (g := fun u => u) (if_pos ((cond_flags s cc).trans h)) fun _ _ => rfl
  · refine Eq.trans (if_neg ?_) (next_retire (s := s) rfl rfl rfl)
    simp [cond_flags, h]
  · exact returnsTo_of_popPc (g := fun u => u) rfl fun _ _ => rfl
  · exact returnsTo_of_popPc (g := State.restoreIff1) rfl fun _ _ => rfl

end Sys2Proof.Machine

/-! The 8-bit and 16-bit arithmetic, rotates, shifts and bit operations: each form of an operation has one effect. -/

namespace Sys2Proof.Machine

/-! ### The eight operations on an operand -/

/-- What an operation of R119 does with its operand. -/
def AluOp.effect : AluOp → Byte → State → State
  | .add => aluAdd
  | .adc => aluAdc
  | .sub => aluSub
  | .sbc => aluSbc
  | .and => aluAnd
  | .xor => aluXor
  | .or => aluOr
  | .cp => aluCp

theorem AluOp.exec_reg (op : AluOp) (r : Reg8) (s : State) :
    exec (op.instr (.reg r)) s = .next ((op.effect (s.main.get r) s).retire 1) := by
  cases op <;> rfl

theorem AluOp.exec_imm (op : AluOp) (n : Byte) (s : State) : exec (op.instr (.imm n)) s = .next ((op.effect n s).retire 2) := by
  cases op <;> rfl

theorem AluOp.exec_mem (op : AluOp) (m : MemForm) (s : State) :
    exec (op.instr (.mem m)) s = loadByte s (m.addr s) (1 + m.extra) op.effect := by
  cases op <;> cases m <;> rfl

/-- An operation takes its operand, in every form. -/
theorem AluOp.takesByte (op : AluOp) {s : State} {res : Byte → Regs}
    (h : ∀ v m, op.effect v { s with memdevs := m } = { s with main := res v, memdevs := m }) (form : Form8) :
    TakesByte (op.instr form) s (form.read s) form.length res := by
  cases form with
  | reg r => exact takesByte_of_register (op.exec_reg r s) (h _ s.memdevs)
  | imm n => exact takesByte_of_register (op.exec_imm n s) (h _ s.memdevs)
  | mem m => exact takesByte_of_loadByte (op.exec_mem m s) h

/-- Settles O39, by `AluOp.takesByte`; the sum is `add8_fst`, its flags `toByte_add8`. -/
theorem additions : Obligations.Additions := by
  refine fun s form => ⟨AluOp.takesByte .add (fun v m => ?_) form, AluOp.takesByte .adc (fun v m => ?_) form⟩
  · rw [← add8_fst, ← toByte_add8]
    rfl
  · rw [← add8_fst, ← toByte_add8]
    rfl

/-- Settles O40, by `AluOp.takesByte`; the difference is `sub8_fst`, its flags `toByte_sub8`. -/
theorem subtractions : Obligations.Subtractions := by
  refine fun s form => ⟨AluOp.takesByte .sub (fun v m => ?_) form, AluOp.takesByte .sbc (fun v m => ?_) form,
    AluOp.takesByte .cp (fun v m => ?_) form⟩
  · rw [← sub8_fst, ← toByte_sub8]
    rfl
  · rw [← sub8_fst, ← toByte_sub8]
    rfl
  · rw [← toByte_sub8]
    rfl

/-- Settles O41, by `AluOp.takesByte`; the flags are `toByte_logicFlags`. -/
theorem logicalOperations : Obligations.LogicalOperations := by
  refine fun s form => ⟨AluOp.takesByte .and (fun v m => ?_) form, AluOp.takesByte .xor (fun v m => ?_) form,
    AluOp.takesByte .or (fun v m => ?_) form⟩
  all_goals
    rw [← toByte_logicFlags]
    rfl

/-! ### Increments and decrements -/

/-- Settles O42; the results are `inc8_fst` and `dec8_fst`, their flags `toByte_inc8` and `toByte_dec8`. -/
theorem byteIncrements : Obligations.ByteIncrements := by
  intro s r d
  have hinc : ∀ {i a len}, exec i s = modifyByteFlags s a len (inc8 s.flags) →
      ModifiesByte i s a len fun v => (v + 1#8, { s.main with f := keepC (sumF v 1#8 false).2 s.main.f }) := fun hx =>
    modifiesByte_of_modifyByteFlags hx (inc8_fst _) fun v => by rw [← toByte_inc8]; rfl
  have hdec : ∀ {i a len}, exec i s = modifyByteFlags s a len (dec8 s.flags) →
      ModifiesByte i s a len fun v => (v - 1#8, { s.main with f := keepC (differenceF v 1#8 false).2 s.main.f }) := fun hx =>
    modifiesByte_of_modifyByteFlags hx (dec8_fst _) fun v => by rw [← toByte_dec8]; rfl
  refine ⟨?_, ?_, ?_, ?_⟩
  · rw [← inc8_fst s.flags, ← toByte_inc8]
    exact next_retire rfl rfl rfl
  · rw [← dec8_fst s.flags, ← toByte_dec8]
    exact next_retire rfl rfl rfl
  · rintro i a len (⟨rfl, rfl, rfl⟩ | ⟨rfl, rfl, rfl⟩ | ⟨rfl, rfl, rfl⟩) <;> exact hinc rfl
  · rintro i a len (⟨rfl, rfl, rfl⟩ | ⟨rfl, rfl, rfl⟩ | ⟨rfl, rfl, rfl⟩) <;> exact hdec rfl

/-! ### The accumulator and the carry -/

/-- Settles O43; the flags are those of the clauses' own lemmas, and of `toByte_sub8` for `NEG`. -/
theorem accumulatorAndCarry : Obligations.AccumulatorAndCarry := by
  rintro s a f n rfl rfl rfl
  refine ⟨?_, ?_, ?_, ?_, ?_⟩
  · rw [← daa_fst, ← toByte_daa]
    exact next_retire rfl rfl rfl
  · rw [← toByte_cplFlags]
    exact next_retire rfl rfl rfl
  · rw [← sub8_fst, ← toByte_sub8]
    exact next_retire rfl rfl rfl
  · rw [← toByte_ccfFlags]
    exact next_retire rfl rfl rfl
  · rw [← toByte_scfFlags]
    exact next_retire rfl rfl rfl

/-- Settles O45; the flags are `toByte_add16`, `toByte_adc16` and `toByte_sbc16`. -/
theorem wordArithmetic : Obligations.WordArithmetic := by
  rintro s ss pp rr f hl rfl rfl
  simp only [← add16_fst, ← toByte_add16, ← adc16_fst, ← toByte_adc16, ← sbc16_fst, ← toByte_sbc16]
  exact ⟨next_retire rfl rfl rfl, next_retire rfl rfl rfl, next_retire rfl rfl rfl, next_retire rfl rfl rfl,
    next_retire rfl rfl rfl⟩

/-! ### Rotates and shifts -/

/-- Settles O47; the results are `ShiftOp.function_eq_result`, the flags `toByte_accRotFlags`. -/
theorem accumulatorRotates : Obligations.AccumulatorRotates := by
  intro s i op res hi hres
  rw [← ShiftOp.function_eq_result] at hres
  subst hres
  rw [← toByte_accRotFlags]
  rcases hi with ⟨rfl, rfl⟩ | ⟨rfl, rfl⟩ | ⟨rfl, rfl⟩ | ⟨rfl, rfl⟩ <;> exact next_retire rfl rfl rfl

theorem ShiftOp.exec_onReg (op : ShiftOp) (r : Reg8) (s : State) :
    exec (op.onReg r) s = .next ((s.updateReg r (shifted fun v => op.function v s.flags.c)).retire 2) := by
  cases op <;> rfl

theorem ShiftOp.exec_onMem (op : ShiftOp) (m : MemForm) (s : State) :
    exec (op.onMem m) s = modifyByteFlags s (m.addr s) (2 + m.extra) (shifted fun v => op.function v s.flags.c) := by
  cases op <;> cases m <;> rfl

/-- Settles O48; the result is `ShiftOp.function_eq_result`, its flags `toByte_shiftFlags`. -/
theorem registerShifts : Obligations.RegisterShifts := by
  intro s op r res hres
  rw [← ShiftOp.function_eq_result] at hres
  subst hres
  rw [op.exec_onReg, ← toByte_shiftFlags]
  exact next_retire rfl rfl rfl

/-- Settles O49; the result is `ShiftOp.function_eq_result`, its flags `toByte_shiftFlags`. -/
theorem memoryShifts : Obligations.MemoryShifts := by
  intro s op m
  simp only [← ShiftOp.function_eq_result, ← toByte_shiftFlags]
  exact modifiesByte_of_modifyByteFlags (op.exec_onMem m s) (fun _ => rfl) fun _ => rfl

/-! ### Digit rotates -/

/-- A digit rotate as a change of a byte and of the main bank. -/
theorem modifiesByte_of_digitRotate {i : Instr} {s : State} {toMem toAcc : Byte → Byte → Byte} {res : Byte → Byte × Regs}
    (hx : exec i s = digitRotate s toMem toAcc) (hv : ∀ t, toMem s.a t = (res t).1)
    (hf : ∀ t, { s.main with a := toAcc s.a t, f := (inFlags s.flags (toAcc s.a t)).toByte } = (res t).2) :
    ModifiesByte i s s.hl 2 res := by
  refine ⟨fun v s1 s2 hr hw => ?_, fun f h => ?_, fun v s1 f hr hw => ?_⟩
  · have f1 := readByte_frame hr
    have f2 := (f1.write.trans (writeByte_frame hw).1).1
    refine ⟨?_, storedByte_of_write f1 hw⟩
    rw [hx, digitRotate, hr, andThen_ok]
    simp only [hv, hw, andThen_ok]
    refine next_retire ?_ rfl rfl
    rw [f2, ← hf]
    rfl
  · rw [hx, digitRotate, h, andThen_error]
  · rw [hx, digitRotate, hr, andThen_ok]
    simp only [hv, hw, andThen_error]

/-- Settles O50, digit by digit (`ofNat_or_digit`); the flags are `toByte_inFlags`. -/
theorem digitRotates : Obligations.DigitRotates := by
  rintro s hi lo rfl rfl
  have hmod : ∀ v : Byte, v.toNat % 16 < 16 := fun v => Nat.mod_lt _ (by decide)
  have hdiv : ∀ v : Byte, v.toNat / 16 < 16 := fun v => by have := v.isLt; omega
  simp only [← toByte_inFlags, ← ofNat_or_digit (hmod _), ← ofNat_or_digit (hdiv _), ← high_digit, ← low_digit,
    ← shiftRight_digit, ← shiftLeft_digit]
  constructor
  · exact modifiesByte_of_digitRotate (toMem := fun a t => (t <<< 4) ||| (a &&& 0x0F))
      (toAcc := fun a t => (a &&& 0xF0) ||| (t >>> 4)) rfl (fun _ => rfl) fun _ => rfl
  · exact modifiesByte_of_digitRotate (toMem := fun a t => (a <<< 4) ||| (t >>> 4))
      (toAcc := fun a t => (a &&& 0xF0) ||| (t &&& 0x0F)) rfl (fun _ => rfl) fun _ => rfl

/-! ### Bits -/

/-- Settles O51; the masked byte is `bitMasked_eq`, its flags `toByte_bitFlags`. -/
theorem bitTests : Obligations.BitTests := by
  rintro s b r d res rfl
  simp only [← bitMasked_eq, ← toByte_bitFlags]
  exact ⟨takesByte_of_register rfl rfl, takesByte_of_loadByte (k := State.testBit b) rfl fun _ _ => rfl,
    takesByte_of_loadByte (k := State.testBit b) rfl fun _ _ => rfl,
    takesByte_of_loadByte (k := State.testBit b) rfl fun _ _ => rfl⟩

/-- Settles O52: the two functions are `bitSet` and `bitReset`, bit by bit. -/
theorem bitSetsAndResets : Obligations.BitSetsAndResets := by
  intro s b r d one zero hone hzero
  have h1 := bitSet_eq hone
  have h0 := bitReset_eq hzero
  refine ⟨?_, ?_, modifiesByte_of_modifyByte rfl h1, modifiesByte_of_modifyByte rfl h1, modifiesByte_of_modifyByte rfl h1,
    modifiesByte_of_modifyByte rfl h0, modifiesByte_of_modifyByte rfl h0, modifiesByte_of_modifyByte rfl h0⟩
  · rw [← h1]
    exact next_retire rfl rfl rfl
  · rw [← h0]
    exact next_retire rfl rfl rfl

end Sys2Proof.Machine

/-! Port transfers, and the block instructions: one iteration of each, and where a repeating one goes. -/

namespace Sys2Proof.Machine

/-! ### One port access -/

section

variable {i : Instr} {s : State} {len : Nat}

theorem takesByte_of_portRead {p : Port} {k : Byte → State → State} {res : Byte → Regs}
    (hx : exec i s = andThen (portRead s p) fun r => .next ((k r.1 r.2).retire len))
    (hk : ∀ v d, k v { s with iodevs := d } = { s with main := res v, iodevs := d }) :
    TakesByte i s (portRead s p) len res := by
  refine ⟨fun v s1 h => ?_, fun f h => ?_⟩
  · have e := (portRead_frame h).1
    rw [hx, h, andThen_ok]
    refine next_retire ?_ rfl rfl
    rw [e]
    exact hk v _
  · rw [hx, h, andThen_error]

theorem exec_of_portWrite {p : Port} {v : Byte} (hx : exec i s = andThen (portWrite s p v) fun s1 => .next (s1.retire len)) :
    (∀ u, portWrite s p v = .ok u → exec i s = .next (({ s with iodevs := u.iodevs } : State).endedAt (nextPc s len)))
      ∧ ∀ f, portWrite s p v = .error f → exec i s = .fault f := by
  refine ⟨fun u h => ?_, fun f h => ?_⟩
  · rw [hx, h, andThen_ok]
    exact next_retire (portWrite_frame h).1 rfl rfl
  · rw [hx, h, andThen_error]

end

/-- Settles O57, by the shapes of one port access; the flags of `IN r,(C)` are `toByte_inFlags`. -/
theorem portTransfers : Obligations.PortTransfers := by
  refine fun s r n => ⟨?_, ?_, ?_⟩
  · exact takesByte_of_portRead (k := fun v s1 => s1.setReg8 .a v) rfl fun _ _ => rfl
  · simp only [← toByte_inFlags]
    exact takesByte_of_portRead (k := fun v s1 => (s1.setReg8 r v).setFlags (inFlags s.flags v)) rfl fun _ _ => rfl
  · rintro i p v (⟨rfl, rfl, rfl⟩ | ⟨rfl, rfl, rfl⟩)
    · exact exec_of_portWrite rfl
    · exact exec_of_portWrite rfl

/-! ### Stepping and repeating -/

/-- What a block instruction steps its addresses by. -/
def blockStep (up : Bool) : Word := if up then 1#16 else 0xFFFF#16

theorem add_blockStep (w : Word) (up : Bool) : w + blockStep up = if up then w + 1#16 else w - 1#16 := by
  cases up with
  | true => rfl
  | false => exact add_ffff_eq_sub_one w

/-- Where a repeating block instruction goes, in the statements' words. -/
theorem next_repeat {s u : State} {again : Bool} {target : Word} (hs : u.source = s.source) (hp : u.pc = s.pc)
    (ht : (if again then s.pc else nextPc s 2) = target) :
    (Host.Outcome.next (u.retireTo (u.repeatTarget again)) : Res) = .next (u.endedAt target) := by
  rw [retireTo_eq_endedAt, State.repeatTarget, npc_eq_nextPc, ← ht]
  simp only [nextPc, hs, hp]

theorem repeat_target (w x : Word) {n : Nat} (v : BitVec n) :
    (if (v != 0#n) = true then w else x) = if v = 0#n then x else w := by
  by_cases h : v = 0#n <;> simp [h]

/-! ### Block transfer -/

theorem afterMove_eq (s : State) (step : Word) (t : Byte) : s.afterMove step t = { s with main :=
    { ((s.main.setHL (s.main.hl + step)).setDE (s.main.de + step)).setBC (s.main.bc - 1#16) with
      f := flagByte (s.main.f.getLsbD 7) (s.main.f.getLsbD 6) ((s.main.a + t).getLsbD 1) false
        ((s.main.a + t).getLsbD 3) (decide (s.main.bc - 1#16 ≠ 0#16)) false (s.main.f.getLsbD 0) } } := by
  rw [← toByte_ldBlockFlags]
  rfl

/-- One byte moved. -/
theorem moveOne_of_ok {s s1 s2 : State} {step : Word} {t : Byte} (hr : readByte s s.main.hl = .ok (t, s1))
    (hw : writeByte s1 s.main.de t = .ok s2) : moveOne s step = .ok ((s.afterMove step t).memOf s2) := by
  have f2 := ((readByte_frame hr).write.trans (writeByte_frame hw).1).1
  simp only [moveOne, hr, hw]
  rw [f2]
  rfl

theorem moveOne_of_read_error {s : State} {step : Word} {f : Fault} (hr : readByte s s.main.hl = .error f) :
    moveOne s step = .error f := by
  simp only [moveOne, hr]

theorem moveOne_of_write_error {s s1 : State} {step : Word} {t : Byte} {f : Fault} (hr : readByte s s.main.hl = .ok (t, s1))
    (hw : writeByte s1 s.main.de t = .error f) : moveOne s step = .error f := by
  simp only [moveOne, hr, hw]

/-- Settles O37: the iteration is `moveOne_of_ok` and `afterMove_eq`, the repetition `next_repeat`. -/
theorem blockTransfers : Obligations.BlockTransfers := by
  intro s up
  have hone : exec (if up then .ldi else .ldd) s = andThen (moveOne s (blockStep up)) fun s1 => .next (s1.retire 2) := by
    cases up <;> rfl
  have hrep : exec (if up then .ldir else .lddr) s = andThen (moveOne s (blockStep up)) fun s1 =>
      .next (s1.retireTo (s1.repeatTarget (s1.main.bc != 0#16))) := by
    cases up <;> rfl
  rw [hone, hrep]
  refine ⟨fun t s1 s2 hr hw bc g hbc hg => ?_, fun f hr => ?_, fun t s1 f hr hw => ?_⟩
  · have hmove : s.afterMove (blockStep up) t = { s with main := g } := by
      rw [afterMove_eq, hg, hbc, add_blockStep, add_blockStep]
    have hgbc : g.bc = bc := by
      simp [hg, Regs.bc, Regs.setBC]
    rw [moveOne_of_ok hr hw, hmove, andThen_ok, andThen_ok]
    refine ⟨next_retire rfl rfl rfl, ?_, storedByte_of_write (readByte_frame hr) hw⟩
    refine next_repeat (s := s) rfl rfl ?_
    rw [← hgbc]
    exact repeat_target _ _ g.bc
  · rw [moveOne_of_read_error hr]
    exact ⟨rfl, rfl⟩
  · rw [moveOne_of_write_error hr hw]
    exact ⟨rfl, rfl⟩

/-! ### Block search -/

theorem afterCompare_eq (s : State) (step : Word) (t : Byte) : s.afterCompare step t = { s with main :=
    { (s.main.setHL (s.main.hl + step)).setBC (s.main.bc - 1#16) with
      f := flagByte ((s.main.a - t).getLsbD 7) (decide (s.main.a = t)) ((s.main.a - t).getLsbD 5)
        (decide (s.main.a.toNat % 16 < t.toNat % 16)) ((s.main.a - t).getLsbD 3) (decide (s.main.bc - 1#16 ≠ 0#16)) true
        (s.main.f.getLsbD 0) } } := by
  rw [← toByte_cpBlockFlags]
  rfl

/-- One byte compared. -/
theorem compareOne_of_ok {s s1 : State} {step : Word} {t : Byte} (hr : readByte s s.main.hl = .ok (t, s1)) :
    compareOne s step = .ok (s.main.a - t, { s.afterCompare step t with memdevs := s1.memdevs }) := by
  have f1 := (readByte_frame hr).1
  simp only [compareOne, hr, sub8_fst_eq_sub]
  rw [f1]
  rfl

theorem compareOne_of_error {s : State} {step : Word} {f : Fault} (hr : readByte s s.main.hl = .error f) :
    compareOne s step = .error f := by
  simp only [compareOne, hr]

/-- Settles O38: the iteration is `compareOne_of_ok` and `afterCompare_eq`, the repetition `next_repeat`. -/
theorem blockSearches : Obligations.BlockSearches := by
  intro s up
  have hone : exec (if up then .cpi else .cpd) s = andThen (compareOne s (blockStep up)) fun r => .next (r.2.retire 2) := by
    cases up <;> rfl
  have hrep : exec (if up then .cpir else .cpdr) s = andThen (compareOne s (blockStep up)) fun r =>
      .next (r.2.retireTo (r.2.repeatTarget (r.2.main.bc != 0#16 && r.1 != 0#8))) := by
    cases up <;> rfl
  rw [hone, hrep]
  refine ⟨fun t s1 hr bc g hbc hg => ?_, fun f hr => ?_⟩
  · have hcmp : s.afterCompare (blockStep up) t = { s with main := g } := by
      rw [afterCompare_eq, hg, hbc, add_blockStep]
    have hgbc : g.bc = bc := by
      simp [hg, Regs.bc, Regs.setBC]
    rw [compareOne_of_ok hr, hcmp, andThen_ok, andThen_ok]
    refine ⟨next_retire rfl rfl rfl, ?_⟩
    refine next_repeat (s := s) rfl rfl ?_
    change (if (g.bc != 0#16 && s.main.a - t != 0#8) = true then _ else _) = _
    rw [hgbc]
    by_cases hb : bc = 0#16
    · simp [hb]
    · by_cases ha : s.main.a = t <;> simp [hb, ha, sub_eq_zero_iff]
  · rw [compareOne_of_error hr]
    exact ⟨rfl, rfl⟩

/-! ### Block input and output -/

theorem afterIo_eq (s : State) (step : Word) : s.afterIo step = { s with
    main := { s.main.setHL (s.main.hl + step) with
      b := s.main.b - 1#8
      f := flagByte ((s.main.b - 1#8).getLsbD 7) (decide (s.main.b - 1#8 = 0#8)) ((s.main.b - 1#8).getLsbD 5)
        (Config.freeBit s.free) ((s.main.b - 1#8).getLsbD 3) (Config.freeBit (s.free + 1)) true (s.main.f.getLsbD 0) }
    free := s.free + 2 } := by
  rw [← toByte_ioBlockFlags]
  rfl

/-- One byte from a port to memory. -/
theorem inputOne_of_ok {s s1 s2 : State} {step : Word} {t : Byte} (hr : portRead s s.main.c = .ok (t, s1))
    (hw : writeByte s1 s.main.hl t = .ok s2) :
    inputOne s step = .ok { (s.afterIo step).memOf s2 with iodevs := s1.iodevs } := by
  have f1 := (portRead_frame hr).1
  have f2 := (writeByte_frame hw).1.1
  rw [f1] at f2
  simp only [inputOne, hr, show writeByte s1 s.hl t = .ok s2 from hw]
  rw [f2]
  rfl

theorem inputOne_of_read_error {s : State} {step : Word} {f : Fault} (hr : portRead s s.main.c = .error f) :
    inputOne s step = .error f := by
  simp only [inputOne, hr]

theorem inputOne_of_write_error {s s1 : State} {step : Word} {t : Byte} {f : Fault} (hr : portRead s s.main.c = .ok (t, s1))
    (hw : writeByte s1 s.main.hl t = .error f) : inputOne s step = .error f := by
  simp only [inputOne, hr, show writeByte s1 s.hl t = .error f from hw]

/-- A byte written after a port read is stored where the statement says, and nowhere else. -/
theorem storedByte_of_port_write {s s1 s2 : State} {a : Word} {v : Byte} (hf : PortFrame s s1) (hw : writeByte s1 a v = .ok s2) :
    StoredByte s s2 a v := by
  have h := storedByte_of_write (.refl s1) hw
  rw [hf.1] at h
  exact h

/-- Settles O58: the iteration is `inputOne_of_ok` and `afterIo_eq`, the repetition `next_repeat`. -/
theorem blockInputs : Obligations.BlockInputs := by
  intro s up
  have hone : exec (if up then .ini else .ind) s = andThen (inputOne s (blockStep up)) fun s1 => .next (s1.retire 2) := by
    cases up <;> rfl
  have hrep : exec (if up then .inir else .indr) s = andThen (inputOne s (blockStep up)) fun s1 =>
      .next (s1.retireTo (s1.repeatTarget (s1.main.b != 0#8))) := by
    cases up <;> rfl
  rw [hone, hrep]
  refine ⟨fun t s1 s2 hr hw => ⟨storedByte_of_port_write (portRead_frame hr) hw, Config.freeBit s.free,
      Config.freeBit (s.free + 1), s.free + 2, _, _, rfl, rfl, ?_⟩,
    fun f hr => ?_, fun t s1 f hr hw => ?_⟩
  · rw [inputOne_of_ok hr hw, afterIo_eq, add_blockStep, andThen_ok, andThen_ok]
    refine ⟨next_retire rfl rfl rfl, ?_⟩
    refine next_repeat (s := s) rfl rfl ?_
    exact repeat_target _ _ (s.main.b - 1#8)
  · rw [inputOne_of_read_error hr]
    exact ⟨rfl, rfl⟩
  · rw [inputOne_of_write_error hr hw]
    exact ⟨rfl, rfl⟩

/-- One byte from memory to a port. -/
theorem outputOne_of_ok {s s1 s2 : State} {step : Word} {t : Byte} (hr : readByte s s.main.hl = .ok (t, s1))
    (hw : portWrite s1 s.main.c t = .ok s2) :
    outputOne s step = .ok { s.afterIo step with memdevs := s1.memdevs, iodevs := s2.iodevs } := by
  have f1 := (readByte_frame hr).1
  have f2 := (portWrite_frame hw).1
  rw [f1] at f2
  simp only [outputOne, show readByte s s.hl = .ok (t, s1) from hr, hw]
  rw [f2]
  rfl

theorem outputOne_of_read_error {s : State} {step : Word} {f : Fault} (hr : readByte s s.main.hl = .error f) :
    outputOne s step = .error f := by
  simp only [outputOne, show readByte s s.hl = .error f from hr]

theorem outputOne_of_write_error {s s1 : State} {step : Word} {t : Byte} {f : Fault} (hr : readByte s s.main.hl = .ok (t, s1))
    (hw : portWrite s1 s.main.c t = .error f) : outputOne s step = .error f := by
  simp only [outputOne, show readByte s s.hl = .ok (t, s1) from hr, hw]

/-- Settles O59: the iteration is `outputOne_of_ok` and `afterIo_eq`, the repetition `next_repeat`. -/
theorem blockOutputs : Obligations.BlockOutputs := by
  intro s up
  have hone : exec (if up then .outi else .outd) s = andThen (outputOne s (blockStep up)) fun s1 => .next (s1.retire 2) := by
    cases up <;> rfl
  have hrep : exec (if up then .otir else .otdr) s = andThen (outputOne s (blockStep up)) fun s1 =>
      .next (s1.retireTo (s1.repeatTarget (s1.main.b != 0#8))) := by
    cases up <;> rfl
  rw [hone, hrep]
  refine ⟨fun t s1 s2 hr hw => ⟨Config.freeBit s.free, Config.freeBit (s.free + 1), s.free + 2, _, _, rfl, rfl, ?_⟩,
    fun f hr => ?_, fun t s1 f hr hw => ?_⟩
  · rw [outputOne_of_ok hr hw, afterIo_eq, add_blockStep, andThen_ok, andThen_ok]
    refine ⟨next_retire rfl rfl rfl, ?_⟩
    refine next_repeat (s := s) rfl rfl ?_
    exact repeat_target _ _ (s.main.b - 1#8)
  · rw [outputOne_of_read_error hr]
    exact ⟨rfl, rfl⟩
  · rw [outputOne_of_write_error hr hw]
    exact ⟨rfl, rfl⟩

end Sys2Proof.Machine

/-! What the host does between steps: register writes one by one, the forced write, and what every operation keeps. -/

namespace Sys2Proof.Machine

/-! ### Register writes -/

theorem State.byteReg_setByteReg_other (s : State) {n m : ByteReg} (v : Byte) (h : m ≠ n) :
    (s.setByteReg n v).byteReg m = s.byteReg m := by
  cases n with
  | i | r =>
    cases m with
    | bank j q => cases j <;> rfl
    | i | r => simp_all [setByteReg, byteReg]
  | bank k r =>
    cases m with
    | i | r => cases k <;> rfl
    | bank j q =>
      by_cases hj : j = k
      · subst hj
        have hq : q ≠ r := fun hq => h (by rw [hq])
        simp only [setByteReg, byteReg, bank_setBank_same, Regs.byte_setByte_other _ v hq]
      · simp only [setByteReg, byteReg, bank_setBank_other _ _ hj]

theorem State.wordReg_setWordReg_other (s : State) {n m : WordReg} (v : Word) (h : m ≠ n) :
    (s.setWordReg n v).wordReg m = s.wordReg m := by
  cases n with
  | ix | iy | sp | pc =>
    cases m with
    | pair j q => cases j <;> rfl
    | ix | iy | sp | pc => simp_all [setWordReg, wordReg]
  | pair k p =>
    cases m with
    | ix | iy | sp | pc => cases k <;> rfl
    | pair j q =>
      by_cases hj : j = k
      · subst hj
        have hq : q ≠ p := fun hq => h (by rw [hq])
        simp only [setWordReg, wordReg, bank_setBank_same, Regs.word_setWord_other _ v hq]
      · simp only [setWordReg, wordReg, bank_setBank_other _ _ hj]

/-- What a byte register reads after a write of one. -/
theorem State.byteReg_setByteReg (s : State) (n m : ByteReg) (v : Byte) :
    (s.setByteReg n v).byteReg m = if m = n then v else s.byteReg m := by
  split
  next h => rw [h, byteReg_setByteReg_same]
  next h => exact s.byteReg_setByteReg_other v h

/-- What a word register reads after a write of one. -/
theorem State.wordReg_setWordReg (s : State) (n m : WordReg) (v : Word) :
    (s.setWordReg n v).wordReg m = if m = n then v else s.wordReg m := by
  split
  next h => rw [h, wordReg_setWordReg_same]
  next h => exact s.wordReg_setWordReg_other v h

/-- A byte register written leaves the word registers that are no pairs, and everything that is no register. -/
theorem sameButRegisters_setByteReg (s : State) (n : ByteReg) (v : Byte) :
    (s.setByteReg n v).ix = s.ix ∧ (s.setByteReg n v).iy = s.iy ∧ (s.setByteReg n v).sp = s.sp
      ∧ (s.setByteReg n v).pc = s.pc ∧ SameButRegisters s (s.setByteReg n v) := by
  rcases n with ⟨k, r⟩ | _ | _
  · cases k <;> exact ⟨rfl, rfl, rfl, rfl, rfl, rfl, rfl, rfl, rfl, rfl, rfl, rfl, rfl⟩
  · exact ⟨rfl, rfl, rfl, rfl, rfl, rfl, rfl, rfl, rfl, rfl, rfl, rfl, rfl⟩
  · exact ⟨rfl, rfl, rfl, rfl, rfl, rfl, rfl, rfl, rfl, rfl, rfl, rfl, rfl⟩

/-- A word register written leaves `I`, `R`, and everything that is no register. -/
theorem sameButRegisters_setWordReg (s : State) (n : WordReg) (v : Word) :
    (s.setWordReg n v).i = s.i ∧ (s.setWordReg n v).r = s.r ∧ SameButRegisters s (s.setWordReg n v) := by
  cases n with
  | pair k p => cases k <;> exact ⟨rfl, rfl, rfl, rfl, rfl, rfl, rfl, rfl, rfl, rfl, rfl⟩
  | ix | iy | sp | pc => exact ⟨rfl, rfl, rfl, rfl, rfl, rfl, rfl, rfl, rfl, rfl, rfl⟩

/-! ### The forced write -/

/-- A forced write of a RAM or ROM byte stores it (R83). -/
theorem memForce_plain {s : State} {a : Nat} {l : Located} (v : Byte) (hl : resolve s.memdevs a = some l)
    (hp : plainKind l.dev.kind = true) : memForce s a v = .ok { s with mem := s.mem.write a v } := by
  simp only [memForce, hl]
  cases hk : l.dev.kind with
  | ram | rom => rfl
  | custom ro id =>
    rw [hk] at hp
    cases hp

/-! ### What every operation keeps -/

theorem cpuReset_store (g : Bool) (s : State) :
    (cpuReset g s).mem = s.mem ∧ (cpuReset g s).memdevs = s.memdevs ∧ (cpuReset g s).iodevs = s.iodevs
      ∧ (cpuReset g s).source = .memory := by
  cases g <;> exact ⟨rfl, rfl, rfl, rfl⟩

/-- The invariant of a state with the memory and devices of one that meets it. -/
theorem inv_of_sameStore {s t : State} (h : Inv s) (hst : SameStore s t) (hsrc : t.source = .memory) : Inv t := by
  obtain ⟨hm, hd, hi⟩ := hst
  exact ⟨hm ▸ h.memory, by rw [hm, hd]; exact h.backed, hi ▸ h.ports, hsrc⟩

theorem sameStore_setRegister (s : State) (w : RegWrite) : SameStore s (s.setRegister w) :=
  ⟨s.setRegister_mem w, s.setRegister_memdevs w, s.setRegister_iodevs w⟩

theorem sameStore_cpuReset (g : Bool) (s : State) : SameStore s (cpuReset g s) := by
  obtain ⟨hm, hd, hi, -⟩ := cpuReset_store g s
  exact ⟨hm, hd, hi⟩

/-- Every operation of the host keeps the invariant. -/
theorem inv_hostOp {s t : State} {o : HostOp} (h : hostOp s o = .ok t) (hs : Inv s) : Inv t := by
  refine hostOp_keeps (fun u w hu => ?_) (fun u v a w hu hw => inv_writeAt hu hw) (fun u v a w hu hr => inv_readAt hu hr)
    (fun a v _ hu hf => ?_) (fun g _ hu => ?_) h hs
  · exact inv_of_sameStore hu (sameStore_setRegister u w) ((u.setRegister_source w).trans hu.source)
  · rcases memForce_cases hf with ⟨l, hl, hp, rfl⟩ | ⟨k, n, rfl⟩
    · exact inv_write hu v (by simp [kindAt, hl]) hp
    · exact inv_setMemInternal hu k n
  · obtain ⟨-, -, -, hsrc⟩ := cpuReset_store g s
    exact inv_of_sameStore hu (sameStore_cpuReset g s) hsrc

theorem halted_readAt {s t : State} {a : Nat} {v : Byte} (h : readAt s a = .ok (v, t)) : t.halted = s.halted := by
  rcases readAt_cases h with ⟨_, _, _, _, rfl⟩ | ⟨_, _, k, n, _, rfl⟩ <;> rfl

theorem halted_writeAt {s t : State} {a : Nat} {v : Byte} (h : writeAt s a v = .ok t) : t.halted = s.halted := by
  rcases writeAt_cases h with ⟨_, rfl⟩ | ⟨_, k, n, _, rfl⟩ <;> rfl

theorem halted_memForce {s t : State} {a : Nat} {v : Byte} (h : memForce s a v = .ok t) : t.halted = s.halted := by
  rcases memForce_cases h with ⟨_, _, _, rfl⟩ | ⟨k, n, rfl⟩ <;> rfl

/-- No operation of the host but reset wakes a halted machine. -/
theorem halted_hostOp {s t : State} {o : HostOp} (h : hostOp s o = .ok t) (ho : ∀ g, o ≠ .reset g) (hs : s.halted = true) :
    t.halted = true :=
  hostOp_keeps (P := fun u => u.halted = true) (fun u w hu => u.setRegister_halted w hu)
    (fun _ _ _ _ hu hw => (halted_writeAt hw).trans hu) (fun _ _ _ _ hu hr => (halted_readAt hr).trans hu)
    (fun _ _ _ hu hf => (halted_memForce hf).trans hu) (fun g hg _ => absurd hg (ho g)) h hs

/-- No operation of the host but the forced write changes a ROM byte. -/
theorem sameRom_hostOp {s t : State} {o : HostOp} (h : hostOp s o = .ok t) (ho : ∀ a v, o ≠ .force a v) : SameRom s t :=
  hostOp_keeps (P := SameRom s) (fun u w hu => hu.of_sameStore (sameStore_setRegister u w))
    (fun _ _ _ _ hu hw => hu.writeAt hw) (fun _ _ _ _ hu hr => hu.readAt hr) (fun a v ha => absurd ha (ho a v))
    (fun g _ hu => hu.of_sameStore (sameStore_cpuReset g s)) h ⟨rfl, rfl, fun _ => rfl, fun _ _ => rfl⟩

/-- Settles O60: register writes one by one, the forced write by `memForce_plain`, and what every operation keeps. -/
theorem hostOperations : Obligations.HostOperations := by
  refine ⟨?byte, ?word, fun _ _ _ => ⟨rfl, rfl, rfl, rfl⟩, ?force,
    fun s t o h => ⟨inv_hostOp h, halted_hostOp h, ?rom, ?read, ?write⟩⟩
  case byte =>
    rintro s t n v rfl
    exact ⟨fun m => s.byteReg_setByteReg n m v, sameButRegisters_setByteReg s n v⟩
  case word =>
    rintro s t n v rfl
    exact ⟨fun m => s.wordReg_setWordReg n m v, sameButRegisters_setWordReg s n v⟩
  case force =>
    intro s a v l hwf hl hp
    refine ⟨_, memForce_plain v hl hp, rfl, ?_, fun k hk => Memory.read_write_other _ v hk⟩
    rw [readAt_plain (s := { s with mem := s.mem.write a v }) hl hp, Memory.read_write hwf, if_pos rfl]
  case rom =>
    intro ho a l hl hk
    obtain ⟨-, -, -, hrom⟩ := sameRom_hostOp h ho
    exact hrom a (by simp [kindAt, hl, hk])
  case read =>
    rintro a rfl
    rw [hostOp] at h
    cases hr : readAt s a with
    | error f => rw [hr] at h; cases h
    | ok r => rw [hr] at h; cases h; exact ⟨r.1, rfl⟩
  case write =>
    rintro a v rfl
    exact h

end Sys2Proof.Machine

/-! The alternate bank: every instruction but the two exchanges that name it commutes with replacing it. -/

namespace Sys2Proof.Machine

/-- The state with another alternate bank. -/
def State.withAlt (g : Regs) (s : State) : State := { s with alt := g }

/-- The outcome with another alternate bank, where it is a state. -/
def outcomeWithAlt (g : Regs) : Res → Res
  | .next t => .next (t.withAlt g)
  | .fault f => .fault f
  | .refused r => .refused r

/-- What an access gives with a value, its state with another alternate bank. -/
def valueWithAlt {α : Type} (g : Regs) (r : α × State) : α × State := (r.1, r.2.withAlt g)

section

variable {g : Regs} {s : State}

/-! ### Accesses -/

/-- An access that commutes with the replacement, and what follows it. -/
theorem andThen_withAlt {α : Type} {e e' : Except Fault α} {m : α → α} {k k' : α → Res} (he : e' = e.map m)
    (hk : ∀ a, k' (m a) = outcomeWithAlt g (k a)) : andThen e' k' = outcomeWithAlt g (andThen e k) := by
  rw [he]
  cases e with
  | error f => rfl
  | ok a => exact hk a

theorem readByte_withAlt (a : Word) : readByte (s.withAlt g) a = (readByte s a).map (valueWithAlt g) := by
  rw [readByte_local (s := s) (t := s.withAlt g) rfl rfl]
  cases h : readByte s a with
  | error f => rfl
  | ok r =>
    simp only [Except.map, valueWithAlt]
    rw [(readByte_frame h).1]
    rfl

theorem readWord_withAlt (a : Word) : readWord (s.withAlt g) a = (readWord s a).map (valueWithAlt g) := by
  rw [readWord_local (s := s) (t := s.withAlt g) rfl rfl]
  cases h : readWord s a with
  | error f => rfl
  | ok r =>
    simp only [Except.map, valueWithAlt]
    rw [(readWord_frame h).1]
    rfl

theorem writeByte_withAlt (a : Word) (v : Byte) : writeByte (s.withAlt g) a v = (writeByte s a v).map (State.withAlt g) := by
  rw [writeByte_local (s := s) (t := s.withAlt g) rfl rfl]
  cases h : writeByte s a v with
  | error f => rfl
  | ok t =>
    simp only [Except.map]
    rw [(writeByte_frame h).1.1]
    rfl

theorem writeWord_withAlt (a v : Word) : writeWord (s.withAlt g) a v = (writeWord s a v).map (State.withAlt g) := by
  rw [writeWord_local (s := s) (t := s.withAlt g) rfl rfl]
  cases h : writeWord s a v with
  | error f => rfl
  | ok t =>
    simp only [Except.map]
    rw [(writeWord_frame h).1.1]
    rfl

theorem portRead_withAlt (p : Port) : portRead (s.withAlt g) p = (portRead s p).map (valueWithAlt g) := by
  rw [portRead, portRead, show (s.withAlt g).iodevs = s.iodevs from rfl]
  cases owner s.iodevs p with
  | none => rfl
  | some r =>
    simp only
    cases r.2.portIn p <;> rfl

theorem portWrite_withAlt (p : Port) (v : Byte) : portWrite (s.withAlt g) p v = (portWrite s p v).map (State.withAlt g) := by
  rw [portWrite, portWrite, show (s.withAlt g).iodevs = s.iodevs from rfl]
  cases owner s.iodevs p with
  | none => rfl
  | some r =>
    simp only
    cases r.2.portOut p v <;> rfl

/-! ### The shared operations made of them -/

theorem push16_withAlt (v : Word) : push16 (s.withAlt g) v = (push16 s v).map (State.withAlt g) :=
  writeWord_withAlt (s := { s with sp := s.sp - 2#16 }) _ v

theorem pop16_withAlt : pop16 (s.withAlt g) = (pop16 s).map (valueWithAlt g) := by
  rw [pop16, pop16, readWord_withAlt, show (s.withAlt g).sp = s.sp from rfl]
  cases readWord s s.sp <;> rfl

theorem popPc_withAlt : popPc (s.withAlt g) = (popPc s).map (State.withAlt g) := by
  rw [popPc, popPc, pop16_withAlt]
  cases pop16 s <;> rfl

theorem moveOne_withAlt (step : Word) : moveOne (s.withAlt g) step = (moveOne s step).map (State.withAlt g) := by
  rw [moveOne, moveOne, readByte_withAlt, show (s.withAlt g).main = s.main from rfl]
  cases readByte s s.main.hl with
  | error f => rfl
  | ok r =>
    simp only [Except.map, valueWithAlt, writeByte_withAlt]
    cases writeByte r.2 s.main.de r.1 <;> rfl

theorem compareOne_withAlt (step : Word) : compareOne (s.withAlt g) step = (compareOne s step).map (valueWithAlt g) := by
  rw [compareOne, compareOne, readByte_withAlt, show (s.withAlt g).main = s.main from rfl]
  cases readByte s s.main.hl <;> rfl

theorem inputOne_withAlt (step : Word) : inputOne (s.withAlt g) step = (inputOne s step).map (State.withAlt g) := by
  rw [inputOne, inputOne, portRead_withAlt, show (s.withAlt g).main = s.main from rfl,
    show (s.withAlt g).hl = s.hl from rfl]
  cases portRead s s.main.c with
  | error f => rfl
  | ok r =>
    simp only [Except.map, valueWithAlt, writeByte_withAlt]
    cases writeByte r.2 s.hl r.1 <;> rfl

theorem outputOne_withAlt (step : Word) : outputOne (s.withAlt g) step = (outputOne s step).map (State.withAlt g) := by
  rw [outputOne, outputOne, readByte_withAlt, show (s.withAlt g).main = s.main from rfl,
    show (s.withAlt g).hl = s.hl from rfl]
  cases readByte s s.hl with
  | error f => rfl
  | ok r =>
    simp only [Except.map, valueWithAlt, portWrite_withAlt]
    cases portWrite r.2 s.main.c r.1 <;> rfl

end

/-! ### Every instruction -/

/-- An instruction commutes with the replacement of the alternate bank, unless it exchanges it. -/
theorem exec_withAlt (i : Instr) (s : State) (g : Regs) (haf : i ≠ .exAFAF) (hxx : i ≠ .exx) :
    exec i (s.withAlt g) = outcomeWithAlt g (exec i s) := by
  cases i with
  | exAFAF => exact absurd rfl haf
  | exx => exact absurd rfl hxx
  | ldRegReg | ldRegImm | ldAI | ldAR | ldIA | ldRA | ldIXImm | ldIYImm | ldSPHL | ldSPIX | ldSPIY | exDEHL
  | addReg | addImm | adcReg | adcImm | subReg | subImm | sbcReg | sbcImm | andReg | andImm | xorReg | xorImm | orReg | orImm
  | cpReg | cpImm | incReg | decReg | daa | cpl | neg | ccf | scf | nop | halt | di | ei | im0 | im1 | im2 | addHLPair
  | adcHLPair | sbcHLPair | addIXPair | addIYPair | incIX | incIY | decIX | decIY | rlca | rla | rrca | rra | rlcReg | rrcReg
  | rlReg | rrReg | slaReg | sraReg | srlReg | bitReg | setReg | resReg | jp | jpCond | jr | jrC | jrNC | jrZ | jrNZ | jpHL
  | jpIX | jpIY | djnz => rfl
  | ldPairImm p | incPair p | decPair p => cases p <;> rfl
  | ldRegIndHL | ldRegIndIX | ldRegIndIY | ldAIndBC | ldAIndDE | ldAIndNN
  | addIndHL | addIndIX | addIndIY | adcIndHL | adcIndIX | adcIndIY | subIndHL | subIndIX | subIndIY | sbcIndHL | sbcIndIX
  | sbcIndIY | andIndHL | andIndIX | andIndIY | xorIndHL | xorIndIX | xorIndIY | orIndHL | orIndIX | orIndIY | cpIndHL
  | cpIndIX | cpIndIY | bitIndHL | bitIndIX | bitIndIY => exact andThen_withAlt (readByte_withAlt _) fun _ => rfl
  | ldIndHLReg | ldIndIXReg | ldIndIYReg | ldIndHLImm | ldIndIXImm | ldIndIYImm | ldIndBCA | ldIndDEA | ldIndNNA =>
    exact andThen_withAlt (writeByte_withAlt _ _) fun _ => rfl
  | ldHLIndNN | ldIXIndNN | ldIYIndNN => exact andThen_withAlt (readWord_withAlt _) fun _ => rfl
  | ldPairIndNN p => cases p <;> exact andThen_withAlt (readWord_withAlt _) fun _ => rfl
  | ldIndNNHL | ldIndNNIX | ldIndNNIY => exact andThen_withAlt (writeWord_withAlt _ _) fun _ => rfl
  | ldIndNNPair _ p => cases p <;> exact andThen_withAlt (writeWord_withAlt _ _) fun _ => rfl
  | pushIX | pushIY | rst | call => exact andThen_withAlt (push16_withAlt _) fun _ => rfl
  | pushPair p => cases p <;> exact andThen_withAlt (push16_withAlt _) fun _ => rfl
  | popIX | popIY => exact andThen_withAlt pop16_withAlt fun _ => rfl
  | popPair p => cases p <;> exact andThen_withAlt pop16_withAlt fun _ => rfl
  | exIndSPHL | exIndSPIX | exIndSPIY =>
    exact andThen_withAlt (readWord_withAlt _) fun _ => andThen_withAlt (writeWord_withAlt _ _) fun _ => rfl
  | ldi | ldir | ldd | lddr => exact andThen_withAlt (moveOne_withAlt _) fun _ => rfl
  | cpi | cpir | cpd | cpdr => exact andThen_withAlt (compareOne_withAlt _) fun _ => rfl
  | incIndHL | incIndIX | incIndIY | decIndHL | decIndIX | decIndIY | rlcIndHL | rlcIndIX | rlcIndIY | rrcIndHL | rrcIndIX
  | rrcIndIY | rlIndHL | rlIndIX | rlIndIY | rrIndHL | rrIndIX | rrIndIY | slaIndHL | slaIndIX | slaIndIY | sraIndHL
  | sraIndIX | sraIndIY | srlIndHL | srlIndIX | srlIndIY | rld | rrd | setIndHL | setIndIX | setIndIY | resIndHL | resIndIX
  | resIndIY => exact andThen_withAlt (readByte_withAlt _) fun _ => andThen_withAlt (writeByte_withAlt _ _) fun _ => rfl
  | callCond cc nn =>
    by_cases h : s.flags.cond cc = true
    · simp only [exec, execCallCond, show (s.withAlt g).flags = s.flags from rfl, if_pos h]
      exact andThen_withAlt (push16_withAlt _) fun _ => rfl
    · simp only [exec, execCallCond, show (s.withAlt g).flags = s.flags from rfl, if_neg h]
      rfl
  | ret | reti | retn => exact andThen_withAlt popPc_withAlt fun _ => rfl
  | retCond cc =>
    by_cases h : s.flags.cond cc = true
    · simp only [exec, execRetCond, show (s.withAlt g).flags = s.flags from rfl, if_pos h]
      exact andThen_withAlt popPc_withAlt fun _ => rfl
    · simp only [exec, execRetCond, show (s.withAlt g).flags = s.flags from rfl, if_neg h]
      rfl
  | inAImm | inRegC => exact andThen_withAlt (portRead_withAlt _) fun _ => rfl
  | outImmA | outCReg => exact andThen_withAlt (portWrite_withAlt _ _) fun _ => rfl
  | ini | inir | ind | indr => exact andThen_withAlt (inputOne_withAlt _) fun _ => rfl
  | outi | otir | outd | otdr => exact andThen_withAlt (outputOne_withAlt _) fun _ => rfl

/-- Settles O23, by `exec_withAlt`; that the bank is kept is the replacement by itself. -/
theorem alternateBankOnlyExchanged : Obligations.AlternateBankOnlyExchanged := by
  intro i s g haf hxx
  have hcomm := fun h => exec_withAlt i s h haf hxx
  refine ⟨fun t ht => ⟨?_, ?_⟩, fun f hf => ?_⟩
  · have hself := hcomm s.alt
    rw [show s.withAlt s.alt = s from rfl, ht] at hself
    have heq : t = t.withAlt s.alt := Host.Outcome.next.inj hself
    rw [heq]
    rfl
  · exact (hcomm g).trans (congrArg _ ht)
  · exact (hcomm g).trans (congrArg _ hf)

end Sys2Proof.Machine
